-- ==== Sys2Proof/Word.lean ====
section
/-! DEFINITION. The two widths of the block: the 32-bit interface word (00_scope.md R7, `REG_W`) and the
8-bit byte of DATA (R8). In both, bit 0 is the least significant bit. -/

namespace Sys2Proof

/-- A word of the register window (R7: `REG_W` is 32), and a latched operand (R33). -/
abbrev Word := BitVec 32

/-- One byte of DATA (R8, R36). -/
abbrev Byte := BitVec 8

end Sys2Proof
end

