-- ==== Sys2Proof/Config.lean ====
section
/-! DEFINITION. What is fixed for a whole run (00_scope.md R7): the constants of the block, the two model
arguments that the spec leaves open, and the one free value. -/

namespace Sys2Proof

/-- The block's identity for a model (R2): name, source repository, spec edition. There is no ID register. -/
def blockIdentity : String × String × String :=
  ("Bit-vector rotator", "blegal/SIMD_bitset_rotation", "v7")

/-- The three rotation strategies (R3, R13 "Kernel / variant"). -/
inductive Variant where
  | scalar
  | v128
  | v256
  deriving DecidableEq, Repr

/-- The model arguments of R7: each is given, and fixed for a whole run. -/
structure Config where
  /-- `MEM_SIZE`: the number of bytes of DATA (R7, R36). -/
  memSize : Nat
  /-- `SCALAR_UNSUPPORTED_NOOP`: ROTL1.S with an unsupported length is a no-op (true) or an error (false)
  (R7, 41_rotate.md R84). -/
  scalarUnsupportedNoop : Bool
  deriving DecidableEq, Repr

namespace Config

/-- The bound R7 sets on `MEM_SIZE`: 1 ≤ MEM_SIZE ≤ 2^32. -/
abbrev wf (c : Config) : Prop := 1 ≤ c.memSize ∧ c.memSize ≤ 2 ^ 32

/-- The arguments under which 95_test_vectors.md runs: MEM_SIZE = 4096, and the default
SCALAR_UNSUPPORTED_NOOP = false of R7. DESIGN CHOICE (log 3): `State.reset` uses them; every claim is
about all values of `State.cfg`. -/
def standard : Config := { memSize := 4096, scalarUnsupportedNoop := false }

/-- `SUPPORTED_N`: the lengths in bits that ROTL1 accepts (R7, 41_rotate.md R76). -/
def supportedN : List Nat := [32, 64, 128, 256, 512, 1024, 2048]

/-- `MAX_N`: the largest rotation length (R7). -/
def maxN : Nat := 2048

/-- `NFRAMES_SUPPORTED`: the accepted frame counts (R7, 41_rotate.md R77). -/
def nframesSupported : List Nat := [1]

/-- `WORD_W(N)`: the word width of the word view of a packed array (R7, 20_memory.md R40). -/
def wordW (n : Nat) : Nat := if n = 32 then 32 else 64

/-- `LANE_W(variant)`: the datapath width of each variant; nothing observable depends on it (R7, R78). -/
def laneW : Variant → Nat
  | .scalar => 64
  | .v128 => 128
  | .v256 => 256

/-- `REG_W`: the width of every interface register (R7). -/
def regW : Nat := 32

/-- `ADDR_W`: the width of a DATA address (R7). -/
def addrW : Nat := 32

/-- The bytes of the register window (R18). -/
def windowBytes : Nat := 0x20

end Config

/-- FREE VALUE (log 4): what the host gets when it reads a DATA byte that nothing has written, by its
address. 93_implementation_defined.md: such a read is `any value` and the unit never sees it. Reading twice
with no write between gives the same value (20_memory.md R44), so it depends on the address alone. -/
opaque Config.unwrittenByte : Nat → Byte

end Sys2Proof
end

