-- ==== Sys2Proof/Syntax.lean ====
section
/-! DEFINITION. The commands of the unit (one constructor per row of spec/opcode_table.json), the fields of a
command word, and the host's operations (30_encoding.md R56, R60, R61, R64). -/

namespace Sys2Proof

/-- The six commands (R61). No operand stands in a command word: every operand is a latched register
(R56, R58), so no constructor has a field. -/
inductive Instr where
  /-- PACK, 40_pack.md R66. -/
  | pack
  /-- UNPACK, 40_pack.md R68. -/
  | unpack
  /-- ROTL1.S, 41_rotate.md R81. -/
  | rotl1S
  /-- ROTL1.V128, 41_rotate.md R82. -/
  | rotl1V128
  /-- ROTL1.V256, 41_rotate.md R83. -/
  | rotl1V256
  /-- EQUAL, 42_compare.md R89. -/
  | equal
  deriving DecidableEq, Repr

/-- The command that performs a rotation variant (R60, VAR values). -/
def Variant.instr : Variant → Instr
  | .scalar => .rotl1S
  | .v128 => .rotl1V128
  | .v256 => .rotl1V256

/-- The three fields of the format CMD32 (R56): OP is bits 3:0, VAR bits 5:4, RSV bits 31:6. -/
structure CmdFields where
  op  : BitVec 4
  var : BitVec 2
  rsv : BitVec 26
  deriving DecidableEq, Repr

/-- Why a command word is Illegal (R62, R63), in the order in which R62 looks. -/
inductive DecodeError where
  /-- RSV (bits 31:6) is not 0. -/
  | reservedBits
  /-- OP is 0x0 or 0x5 to 0xF. -/
  | reservedOp
  /-- OP = 0x3 with VAR = 3. -/
  | reservedVariant
  /-- VAR is not 0 and OP is 0x1, 0x2 or 0x4. -/
  | variantNotZero
  deriving DecidableEq, Repr

/-- The registers of the window, reserved offsets included (10_state.md R18). -/
inductive Reg where
  | cmd
  | len
  | addrA
  | addrB
  | nframes
  | status
  | reserved18
  | reserved1C
  deriving DecidableEq, Repr

/-- One operation of the host (R64, R65 for POLL). A register access carries its byte offset and its width
in bits, so that an access outside 10_state.md R19 can be written down and refused. -/
inductive HostOp where
  /-- `W reg, v` (and `CMD w`, at offset 0). -/
  | regWrite (offset width : Nat) (v : Word)
  /-- `R reg`. -/
  | regRead (offset width : Nat)
  /-- `SB addr, v`. -/
  | dataWrite (addr : Nat) (v : Byte)
  /-- `LB addr`. -/
  | dataRead (addr : Nat)
  /-- `POLL`: read STATUS, and again while bit 0 of the value read is 1. -/
  | poll
  deriving DecidableEq, Repr

/-- A host program as R64 writes it: runs of operations and `REPEAT n` … `END` loops, which may nest. -/
inductive HostProgram where
  | done
  | run (ops : List HostOp) (rest : HostProgram)
  | repeatN (n : Nat) (body rest : HostProgram)
  deriving Repr

end Sys2Proof
end

