-- ==== Sys2Proof/Machine/State.lean ====
section
/-! DEFINITION. The state of the machine as plain data, the state after reset, and the reasons a step can
stop (10_state.md; 60_exceptions.md R97; 70_reset_and_hazards.md R111, R112). -/

namespace Sys2Proof.Machine

/-- DATA (10_state.md R36): the written bytes with their addresses, addresses strictly rising. An address
that is not listed holds the mark UNWRITTEN (00_scope.md R12), which no listed entry equals. -/
abbrev Memory := List Host.Cell

/-- The canonical form: addresses strictly rise, so equal memories are equal lists. -/
abbrev Memory.wf (m : Memory) : Prop := m.Pairwise fun x y => x.1 < y.1

/-- No byte is held at an address that does not exist (R36). -/
abbrev Memory.within (m : Memory) (size : Nat) : Prop := ∀ c ∈ m, c.1 < size

/-- The latched command `L` (R33): the five 32-bit fields copied at an accepted CMD write. -/
structure Latched where
  cmd     : Word
  len     : Word
  a       : Word
  b       : Word
  nframes : Word
  deriving DecidableEq, Repr

/-- Who takes the next step of the interleaving (20_memory.md R50): the host, the unit, or the platform
asserting reset (70_reset_and_hazards.md R111). -/
inductive Turn where
  | host
  | unit
  | reset
  deriving DecidableEq, Repr

/-- What one host read returned (70_reset_and_hazards.md R120, "host gets back"). -/
inductive HostRead where
  | reg (r : Reg) (v : Word)
  | data (addr : Nat) (v : Byte)
  deriving DecidableEq, Repr

/-- The whole machine: the unit's registers, the latched command, DATA, and the host's side. -/
structure State where
  /-- The model arguments of 00_scope.md R7; no step writes them. -/
  cfg : Config
  /-- LEN (R21). -/
  len : Word
  /-- ADDR_A (R22). -/
  addrA : Word
  /-- ADDR_B (R23). -/
  addrB : Word
  /-- NFRAMES (R24). -/
  nframes : Word
  /-- STATUS (R25): BUSY bit 0, EQ bit 1, HALT bit 2, OVR bit 3, ERR bits 7:4. -/
  status : Word
  /-- `L` (R33): `none` is "invalid". -/
  latch : Option Latched
  /-- DATA (R36). -/
  data : Memory
  /-- The model's own: the host operations still to run (30_encoding.md R64). -/
  program : List HostOp
  /-- The model's own: whose turn comes next (20_memory.md R50; log 1). -/
  schedule : List Turn
  /-- The model's own: what the host has read, newest first (log 8). -/
  reads : List HostRead
  deriving DecidableEq, Repr

/-- Power-on with the given arguments: R37 and R111 for the registers, R112 for DATA, and no host program
loaded (log 2). -/
def State.resetWith (c : Config) : State :=
  { cfg := c
    len := 0x00000000
    addrA := 0x00000000
    addrB := 0x00000000
    nframes := 0x00000001
    status := 0x00000000
    latch := none
    data := []
    program := []
    schedule := []
    reads := [] }

/-- The machine right after power-on reset. DESIGN CHOICE (log 3): the arguments are those of
95_test_vectors.md. -/
def State.reset : State := State.resetWith Config.standard

/-- The model faults (60_exceptions.md R97). Both end the run, and both are safe: the chip would go on. -/
inductive Fault where
  /-- A perform step read the UNWRITTEN byte at `addr` (20_memory.md R46). Raised by a command's meaning. Safe. -/
  | uninit (cmd : Instr) (addr : Nat)
  /-- The host touched `addr`, in the latched command's footprint, while BUSY = 1 (20_memory.md R51). Raised by
  a host DATA access. Safe. -/
  | hostRace (addr : Nat)
  deriving DecidableEq, Repr

/-- What has no meaning. -/
inductive Refusal where
  /-- No meaning yet for this instruction. Safe. No arm of `exec` answers it. -/
  | notModelled (mnemonic : String)
  /-- A register access that is not an aligned 32-bit access of the window (10_state.md R19). Raised by a host
  operation. Safe. -/
  | registerAccess (offset width : Nat)
  /-- A host DATA access at or above MEM_SIZE (20_memory.md R45). Raised by a host operation. Safe. -/
  | dataAddress (addr : Nat)
  /-- A perform with no valid latched command: 10_state.md R33 and 60_exceptions.md R95 give it no step. Raised
  by a meaning, only in states no run reaches. Safe (log 6). -/
  | noLatchedCommand
  /-- STATUS.ERR holds a reserved code, 7 to 15: an ill-formed state (93_implementation_defined.md). Raised by
  `step`, only in states no run reaches. Safe (log 7). -/
  | reservedErrorCode (code : Nat)
  deriving DecidableEq, Repr

/-- The outcome of one step of this machine. -/
abbrev Result := Host.Outcome State Fault Refusal

end Sys2Proof.Machine
end

