-- ==== Sys2Proof/Machine/Flags.lean ====
section
/-! DEFINITION. The fields of STATUS, the block's only flags: how each is read and how each is written
(10_state.md R25 to R32). -/

namespace Sys2Proof.Machine

/-- STATUS with bit `i` set to `b`; every other bit stays. -/
def setStatusBit (w : Word) (i : Nat) (b : Bool) : Word :=
  if b then w ||| (1#32 <<< i) else w &&& ~~~(1#32 <<< i)

/-- STATUS with ERR (bits 7:4) set to `c`; every other bit stays. -/
def setErrField (w : Word) (c : BitVec 4) : Word :=
  (w &&& ~~~0x000000F0#32) ||| (c.setWidth 32 <<< 4)

/-- STATUS.BUSY, bit 0 (R26). -/
def State.busy (s : State) : Bool := s.status.getLsbD 0

/-- STATUS.EQ, bit 1 (R27). -/
def State.eqFlag (s : State) : Bool := s.status.getLsbD 1

/-- STATUS.HALT, bit 2 (R28). -/
def State.halt (s : State) : Bool := s.status.getLsbD 2

/-- STATUS.OVR, bit 3 (R29). -/
def State.ovr (s : State) : Bool := s.status.getLsbD 3

/-- STATUS.ERR, bits 7:4 (R30). -/
def State.err (s : State) : BitVec 4 := s.status.extractLsb' 4 4

def State.setBusy (s : State) (b : Bool) : State := { s with status := setStatusBit s.status 0 b }

def State.setEq (s : State) (b : Bool) : State := { s with status := setStatusBit s.status 1 b }

def State.setHalt (s : State) (b : Bool) : State := { s with status := setStatusBit s.status 2 b }

def State.setOvr (s : State) (b : Bool) : State := { s with status := setStatusBit s.status 3 b }

def State.setErr (s : State) (c : BitVec 4) : State := { s with status := setErrField s.status c }

/-- What a read of STATUS returns: bits 31:8 always read 0 (R31). -/
def statusReadValue (w : Word) : Word := w &&& 0x000000FF#32

/-- EQ after a comparison (42_compare.md R89): 1 iff every byte pair matches. -/
def equalFlag (xs ys : List Byte) : Bool := xs == ys

end Sys2Proof.Machine
end

