-- ==== Sys2Proof/WellFormed.lean ====
section
/-! DEFINITION. What a well-formed command word's fields and a well-formed host operation are
(30_encoding.md R56, R60, R63; 10_state.md R19; 20_memory.md R45). A term of `Instr` has no operand, so every one
is well formed; what can be ill formed is a command word, by its fields, and a host operation. -/

namespace Sys2Proof

/-- RSV must be 0 (R56). -/
def CmdFields.rsvOk (f : CmdFields) : Bool := f.rsv == 0

/-- OP must be one of 0x1 to 0x4 (R60). -/
def CmdFields.opOk (f : CmdFields) : Bool := f.op == 1 || f.op == 2 || f.op == 3 || f.op == 4

/-- VAR must be 0, or 0 to 2 where OP is 0x3 (R60). -/
def CmdFields.varOk (f : CmdFields) : Bool := f.var == 0 || (f.op == 3 && f.var != 3)

/-- The fields of a legal command word (R63). -/
def CmdFields.wf (f : CmdFields) : Bool := f.rsvOk && f.opOk && f.varOk

/-- An access of the register window is aligned, 32 bits wide and inside the 32-byte window (R19). -/
def regAccessWf (offset width : Nat) : Bool :=
  width == Config.regW && offset % 4 == 0 && decide (offset < Config.windowBytes)

/-- A host operation that the host has a move for (R19, R45). -/
def HostOp.wf (c : Config) : HostOp → Bool
  | .regWrite offset width _ => regAccessWf offset width
  | .regRead offset width => regAccessWf offset width
  | .dataWrite addr _ => decide (addr < c.memSize)
  | .dataRead addr => decide (addr < c.memSize)
  | .poll => true

end Sys2Proof
end

