-- ==== Sys2Proof/Decode.lean ====
section
/-! DEFINITION. Decoding of a command word, total on all 2^32 words (30_encoding.md R62), and the encoder
written from the same table (R56, R61). -/

namespace Sys2Proof

/-- OP, bits 3:0 (R56). -/
def opField (w : Word) : BitVec 4 := w.extractLsb' 0 4

/-- VAR, bits 5:4 (R56). -/
def varField (w : Word) : BitVec 2 := w.extractLsb' 4 2

/-- RSV, bits 31:6 (R56). -/
def rsvField (w : Word) : BitVec 26 := w.extractLsb' 6 26

/-- The fields of a command word (R56). -/
def fieldsOf (w : Word) : CmdFields := { op := opField w, var := varField w, rsv := rsvField w }

/-- R62 on the fields. Every rejection is `Illegal` in the spec; its name says which part of R63 it falls under. -/
def decodeFields (f : CmdFields) : Except DecodeError Instr :=
  if f.rsv ≠ 0 then .error .reservedBits
  else if f.op = 0x1 ∧ f.var = 0 then .ok .pack
  else if f.op = 0x2 ∧ f.var = 0 then .ok .unpack
  else if f.op = 0x3 ∧ f.var = 0 then .ok .rotl1S
  else if f.op = 0x3 ∧ f.var = 1 then .ok .rotl1V128
  else if f.op = 0x3 ∧ f.var = 2 then .ok .rotl1V256
  else if f.op = 0x4 ∧ f.var = 0 then .ok .equal
  else if f.op = 0x3 then .error .reservedVariant
  else if f.op = 0x1 ∨ f.op = 0x2 ∨ f.op = 0x4 then .error .variantNotZero
  else .error .reservedOp

/-- `decode(w)` of R62: the whole 32-bit word is one command (R57). -/
def decode (w : Word) : Except DecodeError Instr := decodeFields (fieldsOf w)

/-- The fields of each legal command (R60, R61). -/
def instrFields : Instr → CmdFields
  | .pack => { op := 0x1, var := 0, rsv := 0 }
  | .unpack => { op := 0x2, var := 0, rsv := 0 }
  | .rotl1S => { op := 0x3, var := 0, rsv := 0 }
  | .rotl1V128 => { op := 0x3, var := 1, rsv := 0 }
  | .rotl1V256 => { op := 0x3, var := 2, rsv := 0 }
  | .equal => { op := 0x4, var := 0, rsv := 0 }

/-- An instruction is well formed when its word's fields are legal (R63). -/
def Instr.wf (i : Instr) : Bool := (instrFields i).wf

/-- The word with the given fields (R56): RSV, VAR, OP from the high bits down. -/
def wordOf (f : CmdFields) : Word := (f.rsv ++ f.var ++ f.op : BitVec (26 + 2 + 4))

/-- The command word of an instruction (R61). -/
def encode (i : Instr) : Word := wordOf (instrFields i)

/-- The instruction the decoder reads from the table's number `w` of `nbits` bits: a command is one 32-bit
word (R57), so bits above `nbits` are 0 and a number that does not fit in 32 bits is no command. -/
def decodeTableWord (nbits w : Nat) : Option Instr :=
  if w % 2 ^ nbits < 2 ^ 32 then
    match decode (BitVec.ofNat 32 (w % 2 ^ nbits)) with
    | .ok i => some i
    | .error _ => none
  else none

end Sys2Proof
end

