-- ==== Sys2Proof/Machine/Operands.lean ====
section
/-! DEFINITION. The operands of a latched command (30_encoding.md R58, R59), the checks on them, the
footprints (20_memory.md R42, R48), and the registers of the window by offset (10_state.md R18, R19). -/

namespace Sys2Proof.Machine

/-- N = L.len, a bit count (R58). -/
def Latched.bits (l : Latched) : Nat := l.len.toNat

/-- N div 8, the packed byte count (R58). -/
def Latched.packedLen (l : Latched) : Nat := l.bits / 8

/-- a = L.a, a DATA byte address (R58). -/
def Latched.addrA (l : Latched) : Nat := l.a.toNat

/-- b = L.b, a DATA byte address (R58). -/
def Latched.addrB (l : Latched) : Nat := l.b.toNat

/-- F = L.nframes, a frame count (R58). -/
def Latched.frames (l : Latched) : Nat := l.nframes.toNat

/-- N is a positive multiple of 8 (R91: otherwise InvalidLength, for PACK, UNPACK and EQUAL). -/
def byteLengthOk (n : Nat) : Bool := n != 0 && n % 8 == 0

/-- N is in SUPPORTED_N (41_rotate.md R76). -/
def rotateLengthOk (n : Nat) : Bool := Config.supportedN.contains n

/-- The frame count is accepted (41_rotate.md R77). -/
def framesOk (f : Nat) : Bool := Config.nframesSupported.contains f

/-- `Range(start, len)` of 00_scope.md R11. -/
structure Span where
  start : Nat
  len   : Nat
  deriving DecidableEq, Repr

/-- `x` is in the range. -/
def Span.has (r : Span) (x : Nat) : Bool := decide (r.start ≤ x) && decide (x < r.start + r.len)

/-- `InMem(a, n)` of R11: a + n ≤ MEM_SIZE, on unbounded naturals (20_memory.md R48). -/
def Span.inMem (c : Config) (r : Span) : Bool := decide (r.start + r.len ≤ c.memSize)

/-- The two ranges share a byte (the Overlap check of 40_pack.md R66, R68). -/
def Span.meets (r t : Span) : Bool :=
  decide (max r.start t.start < min (r.start + r.len) (t.start + t.len))

/-- The ranges each command reads (20_memory.md R42). -/
def readSpans (i : Instr) (l : Latched) : List Span :=
  match i with
  | .pack => [⟨l.addrB, l.bits⟩]
  | .unpack => [⟨l.addrB, l.packedLen⟩]
  | .rotl1S => [⟨l.addrA, l.packedLen⟩]
  | .rotl1V128 => [⟨l.addrA, l.packedLen⟩]
  | .rotl1V256 => [⟨l.addrA, l.packedLen⟩]
  | .equal => [⟨l.addrA, l.packedLen⟩, ⟨l.addrB, l.packedLen⟩]

/-- The ranges each command writes (20_memory.md R42). -/
def writeSpans (i : Instr) (l : Latched) : List Span :=
  match i with
  | .pack => [⟨l.addrA, l.packedLen⟩]
  | .unpack => [⟨l.addrA, l.bits⟩]
  | .rotl1S => [⟨l.addrA, l.packedLen⟩]
  | .rotl1V128 => [⟨l.addrA, l.packedLen⟩]
  | .rotl1V256 => [⟨l.addrA, l.packedLen⟩]
  | .equal => []

/-- The footprint of a latched command (R42), defined whatever its outcome will be; an Illegal word has none. -/
def footprint (l : Latched) : List Span :=
  match decode l.cmd with
  | .ok i => readSpans i l ++ writeSpans i l
  | .error _ => []

/-- The DATA address `x` is in the footprint of the latched command. -/
def inFootprint (l : Latched) (x : Nat) : Bool := (footprint l).any fun r => r.has x

/-- The byte offset of a register in the window (R18). -/
def regOffset : Reg → Nat
  | .cmd => 0x00
  | .len => 0x04
  | .addrA => 0x08
  | .addrB => 0x0C
  | .nframes => 0x10
  | .status => 0x14
  | .reserved18 => 0x18
  | .reserved1C => 0x1C

/-- The register at an offset (R18); none at any other offset. -/
def regAt (offset : Nat) : Option Reg :=
  if offset = 0x00 then some .cmd
  else if offset = 0x04 then some .len
  else if offset = 0x08 then some .addrA
  else if offset = 0x0C then some .addrB
  else if offset = 0x10 then some .nframes
  else if offset = 0x14 then some .status
  else if offset = 0x18 then some .reserved18
  else if offset = 0x1C then some .reserved1C
  else none

/-- The register a host access reaches: only an aligned 32-bit access has a move (R19). -/
def regAccess (offset width : Nat) : Option Reg :=
  if width = Config.regW then regAt offset else none

end Sys2Proof.Machine
end

