-- ==== Sys2Proof/Machine/Ops.lean ====
section
/-! DEFINITION. The named operations over DATA, values and registers, error entry (60_exceptions.md R93) and
reset (70_reset_and_hazards.md R111). -/

namespace Sys2Proof.Machine

/-! DATA, one byte at a time (20_memory.md R42, R45). -/

/-- The byte at address `x`; `none` is the mark UNWRITTEN (00_scope.md R12). -/
def Memory.byteAt : Memory → Nat → Option Byte
  | [], _ => none
  | (a, v) :: rest, x => if a = x then some v else Memory.byteAt rest x

/-- DATA with the byte at `x` set to `v`, addresses kept in rising order. -/
def Memory.setByte : Memory → Nat → Byte → Memory
  | [], x, v => [(x, v)]
  | (a, b) :: rest, x, v =>
    if x < a then (x, v) :: (a, b) :: rest
    else if x = a then (x, v) :: rest
    else (a, b) :: Memory.setByte rest x v

/-- The `n` bytes at `a`, a+1, …, or the address of the first UNWRITTEN one (20_memory.md R46; log 12). -/
def Memory.readBytes (m : Memory) (a : Nat) : Nat → Except Nat (List Byte)
  | 0 => .ok []
  | n + 1 =>
    match m.byteAt a with
    | none => .error a
    | some v =>
      match Memory.readBytes m (a + 1) n with
      | .error x => .error x
      | .ok vs => .ok (v :: vs)

/-- DATA with the bytes `vs` at `a`, a+1, …. -/
def Memory.writeBytes (m : Memory) (a : Nat) : List Byte → Memory
  | [] => m
  | v :: vs => Memory.writeBytes (m.setByte a v) (a + 1) vs

/-! Arrays of bytes as values (20_memory.md R39, 40_pack.md R66, R68, 41_rotate.md R71). -/

/-- The little-endian value of an array: byte k is bits 8k+7:8k (R39). -/
def leValue : List Byte → Nat
  | [] => 0
  | v :: vs => v.toNat + 256 * leValue vs

/-- The `n` bytes of a value, lowest first (R10, `MemWrite`). -/
def leBytes : Nat → Nat → List Byte
  | 0, _ => []
  | n + 1, v => BitVec.ofNat 8 v :: leBytes n (v / 256)

/-- `rotl1_N(V)` of R71. -/
def rotl1 (n v : Nat) : Nat := ((v <<< 1) ||| (v >>> (n - 1))) % 2 ^ n

/-- The packed byte whose bit q is bit 0 of the unpacked byte `u q` (R66's expression, for bytes of 0 or 1). -/
def packByte (u : Nat → Byte) : Byte :=
  u 0 ||| u 1 <<< 1 ||| u 2 <<< 2 ||| u 3 <<< 3 ||| u 4 <<< 4 ||| u 5 <<< 5 ||| u 6 <<< 6 ||| u 7 <<< 7

/-- The `count` packed bytes of an unpacked array (R66). -/
def packBytes (count : Nat) (u : List Byte) : List Byte :=
  (List.range count).map fun i => packByte fun q => u.getD (8 * i + q) 0#8

/-- The `n` unpacked bytes of a packed array (R68): byte k is bit k mod 8 of packed byte k div 8. -/
def unpackBytes (n : Nat) (p : List Byte) : List Byte :=
  (List.range n).map fun k => (p.getD (k / 8) 0#8 >>> (k % 8)) &&& 1#8

/-- Every byte of an unpacked array is 0x00 or 0x01 (R66, InvalidData otherwise). -/
def unpackedOk (u : List Byte) : Bool := u.all fun v => v == 0x00#8 || v == 0x01#8

/-! Error entry and completion. -/

/-- The error kinds (60_exceptions.md R91). -/
inductive ErrorKind where
  | invalidLength
  | unsupportedConfiguration
  | illegalCommand
  | addressRange
  | overlap
  | invalidData
  deriving DecidableEq, Repr

/-- The STATUS.ERR code of an error kind (R91). -/
def errorCode : ErrorKind → BitVec 4
  | .invalidLength => 1
  | .unsupportedConfiguration => 2
  | .illegalCommand => 3
  | .addressRange => 4
  | .overlap => 5
  | .invalidData => 6

/-- `L` becomes invalid (R33). -/
def State.unlatch (s : State) : State := { s with latch := none }

/-- Error entry, `raise E` (R92, R93, R100): ERR gets the code, HALT becomes 1, BUSY becomes 0, `L` becomes
invalid; EQ, OVR, the registers and DATA stay. There is no return from it but reset (R101). -/
def State.raise (s : State) (e : ErrorKind) : State :=
  (((s.setErr (errorCode e)).setHalt true).setBusy false).unlatch

/-- The end of a successful perform: BUSY becomes 0 and `L` is no longer valid (R26, R33, R95). -/
def State.complete (s : State) : State := (s.setBusy false).unlatch

/-- DATA with the bytes `vs` at `a` (R10, `MemWrite`). -/
def State.store (s : State) (a : Nat) (vs : List Byte) : State :=
  { s with data := s.data.writeBytes a vs }

/-- Run a command's body on the latched command (R95: a perform reads only `L`, R33). -/
def withLatched (s : State) (body : Latched → Result) : Result :=
  match s.latch with
  | none => .refused .noLatchedCommand
  | some l => body l

/-- Read a range for command `i` and go on with its bytes, or fault at the first UNWRITTEN one
(20_memory.md R46). -/
def readSpan (i : Instr) (s : State) (r : Span) (body : List Byte → Result) : Result :=
  match s.data.readBytes r.start r.len with
  | .error x => .fault (.uninit i x)
  | .ok vs => body vs

/-! Registers and reset. -/

/-- What a host read of a register returns (R18, R20 to R25, R31). Reads have no side effects (R44). -/
def readReg (s : State) : Reg → Word
  | .cmd => 0x00000000
  | .len => s.len
  | .addrA => s.addrA
  | .addrB => s.addrB
  | .nframes => s.nframes
  | .status => statusReadValue s.status
  | .reserved18 => 0x00000000
  | .reserved1C => 0x00000000

/-- A host write of `w` to CMD (R20). -/
def writeCmd (s : State) (w : Word) : State :=
  if s.halt then s
  else if s.busy then s.setOvr true
  else
    State.setBusy
      { s with latch := some { cmd := w, len := s.len, a := s.addrA, b := s.addrB, nframes := s.nframes } } true

/-- A host write of `v` to a register (R18, R20 to R25, R31). -/
def writeReg (s : State) (r : Reg) (v : Word) : State :=
  match r with
  | .cmd => writeCmd s v
  | .len => { s with len := v }
  | .addrA => { s with addrA := v }
  | .addrB => { s with addrB := v }
  | .nframes => { s with nframes := v }
  | .status => s
  | .reserved18 => s
  | .reserved1C => s

/-- Reset asserted by the platform (R111): the registers and STATUS take their reset values, a latched command
is discarded, DATA stays (R112). The host's side is outside the unit and stays (log 11). -/
def State.platformReset (s : State) : State :=
  { s with
    len := 0x00000000
    addrA := 0x00000000
    addrB := 0x00000000
    nframes := 0x00000001
    status := 0x00000000
    latch := none }

end Sys2Proof.Machine
end

