-- ==== Sys2Proof/Machine/HostPort.lean ====
section
/-! DEFINITION. The host's operations on the register window and on DATA (10_state.md R19; 20_memory.md R45,
R51; 30_encoding.md R64, R65). -/

namespace Sys2Proof.Machine

/-- The host gets back what it read (70_reset_and_hazards.md R120). -/
def State.noteRead (s : State) (r : HostRead) : State := { s with reads := r :: s.reads }

/-- A host DATA access at `x`: refused at or above MEM_SIZE (R45), a race inside the latched command's footprint
while BUSY = 1 (R51), and otherwise ordinary. -/
def hostDataAccess (s : State) (x : Nat) (next : State) : Result :=
  if s.cfg.memSize ≤ x then .refused (.dataAddress x)
  else if s.busy && (s.latch.any fun l => inFootprint l x) then .fault (.hostRace x)
  else .next next

/-- What a host read of a DATA byte returns: the byte, or any value where nothing has written it (log 4). -/
def hostByte (s : State) (x : Nat) : Byte := (s.data.byteAt x).getD (Config.unwrittenByte x)

/-- One host operation, already taken off the host's program. A register access outside R19 is refused. POLL
reads STATUS and stays the host's next operation while the BUSY it read is 1 (R65; log 10). -/
def hostOp (o : HostOp) (s : State) : Result :=
  match o with
  | .regWrite offset width v =>
    match regAccess offset width with
    | none => .refused (.registerAccess offset width)
    | some r => .next (writeReg s r v)
  | .regRead offset width =>
    match regAccess offset width with
    | none => .refused (.registerAccess offset width)
    | some r => .next (s.noteRead (.reg r (readReg s r)))
  | .dataWrite addr v => hostDataAccess s addr (s.store addr [v])
  | .dataRead addr => hostDataAccess s addr (s.noteRead (.data addr (hostByte s addr)))
  | .poll =>
    let v := readReg s .status
    let s' := s.noteRead (.reg .status v)
    if v.getLsbD 0 then .next { s' with program := .poll :: s'.program } else .next s'

/-- The host's turn: its next operation, or nothing where its program has ended (log 13). -/
def hostTurn (s : State) : Result :=
  match s.program with
  | [] => .next s
  | o :: rest => hostOp o { s with program := rest }

end Sys2Proof.Machine
end

