-- ==== Sys2Proof/Machine/Compare.lean ====
section
/-! DEFINITION. The conformance comparator: EQUAL (42_compare.md). -/

namespace Sys2Proof.Machine

/-- EQUAL (R89). -/
def execEqual (s : State) : Result :=
  withLatched s fun l =>
    let ra : Span := ⟨l.addrA, l.packedLen⟩
    let rb : Span := ⟨l.addrB, l.packedLen⟩
    if !byteLengthOk l.bits then .next (s.raise .invalidLength)
    else if !ra.inMem s.cfg || !rb.inMem s.cfg then .next (s.raise .addressRange)
    else readSpan .equal s ra fun xs =>
      readSpan .equal s rb fun ys =>
        .next (s.setEq (equalFlag xs ys)).complete

end Sys2Proof.Machine
end

