-- ==== Sys2Proof/Machine/Pack.lean ====
section
/-! DEFINITION. The bit packer and unpacker: PACK and UNPACK (40_pack.md). The checks are in the order of
60_exceptions.md R96. -/

namespace Sys2Proof.Machine

/-- PACK (R66). -/
def execPack (s : State) : Result :=
  withLatched s fun l =>
    let dst : Span := ⟨l.addrA, l.packedLen⟩
    let src : Span := ⟨l.addrB, l.bits⟩
    if !byteLengthOk l.bits then .next (s.raise .invalidLength)
    else if !dst.inMem s.cfg || !src.inMem s.cfg then .next (s.raise .addressRange)
    else if dst.meets src then .next (s.raise .overlap)
    else readSpan .pack s src fun u =>
      if !unpackedOk u then .next (s.raise .invalidData)
      else .next (s.store l.addrA (packBytes l.packedLen u)).complete

/-- UNPACK (R68). -/
def execUnpack (s : State) : Result :=
  withLatched s fun l =>
    let dst : Span := ⟨l.addrA, l.bits⟩
    let src : Span := ⟨l.addrB, l.packedLen⟩
    if !byteLengthOk l.bits then .next (s.raise .invalidLength)
    else if !dst.inMem s.cfg || !src.inMem s.cfg then .next (s.raise .addressRange)
    else if dst.meets src then .next (s.raise .overlap)
    else readSpan .unpack s src fun p =>
      .next (s.store l.addrA (unpackBytes l.bits p)).complete

end Sys2Proof.Machine
end

