-- ==== Sys2Proof/Machine/Rotate.lean ====
section
/-! DEFINITION. Rotate-left-by-one: ROTL1.S, ROTL1.V128, ROTL1.V256 (41_rotate.md). The three share one body
(R79; R78 lets a model do so); the checks are in the order of 60_exceptions.md R96. -/

namespace Sys2Proof.Machine

/-- `rotl1_body(variant)` (R79). -/
def rotl1Body (v : Variant) (s : State) : Result :=
  withLatched s fun l =>
    let arr : Span := ⟨l.addrA, l.packedLen⟩
    if !framesOk l.frames then .next (s.raise .unsupportedConfiguration)
    else if !rotateLengthOk l.bits then
      if v == .scalar && s.cfg.scalarUnsupportedNoop then .next s.complete
      else .next (s.raise .unsupportedConfiguration)
    else if !arr.inMem s.cfg then .next (s.raise .addressRange)
    else readSpan v.instr s arr fun vs =>
      .next (s.store l.addrA (leBytes l.packedLen (rotl1 l.bits (leValue vs)))).complete

/-- ROTL1.S (R81). -/
def execRotl1S (s : State) : Result := rotl1Body .scalar s

/-- ROTL1.V128 (R82). -/
def execRotl1V128 (s : State) : Result := rotl1Body .v128 s

/-- ROTL1.V256 (R83). -/
def execRotl1V256 (s : State) : Result := rotl1Body .v256 s

end Sys2Proof.Machine
end

