-- ==== Sys2Proof/Machine/Dispatch.lean ====
section
/-! DEFINITION. The body of each command, by constructor (60_exceptions.md R95). -/

namespace Sys2Proof.Machine

def exec (i : Instr) (s : State) : Host.Outcome State Fault Refusal :=
  match i with
  | .pack => Sys2Proof.Machine.execPack s
  | .unpack => Sys2Proof.Machine.execUnpack s
  | .rotl1S => Sys2Proof.Machine.execRotl1S s
  | .rotl1V128 => Sys2Proof.Machine.execRotl1V128 s
  | .rotl1V256 => Sys2Proof.Machine.execRotl1V256 s
  | .equal => Sys2Proof.Machine.execEqual s

end Sys2Proof.Machine
end

