-- ==== Sys2Proof/Machine/Perform.lean ====
section
/-! DEFINITION. The unit's one kind of step, `perform` (60_exceptions.md R95). -/

namespace Sys2Proof.Machine

/-- The perform step is enabled exactly when BUSY = 1 and HALT = 0 (R95). -/
def State.performEnabled (s : State) : Bool := s.busy && !s.halt

/-- Carry out the latched command in one transition (R95, 20_memory.md R43): decode L.cmd, here and not at the
CMD write (30_encoding.md R62), raise IllegalCommand (R96 step 1) or run the command's body. -/
def perform (s : State) : Result :=
  withLatched s fun l =>
    match decode l.cmd with
    | .error _ => .next (s.raise .illegalCommand)
    | .ok i => exec i s

/-- The unit's turn: it performs when it is enabled, and otherwise it is idle (R110; log 13). -/
def unitTurn (s : State) : Result :=
  if s.performEnabled then perform s else .next s

end Sys2Proof.Machine
end

