-- ==== Sys2Proof/Machine/Interleave.lean ====
section
/-! DEFINITION. The interleaving of host steps, perform steps and resets (20_memory.md R50; 60_exceptions.md
R95, R99; 70_reset_and_hazards.md R111; log 1). -/

namespace Sys2Proof.Machine

/-- Whose turn it is, and the turns after it. Where the schedule has ended, an enabled perform goes first and then
the host: a command that stays enabled is performed (weak fairness, R95; log 1, log 17). -/
def nextTurn (s : State) : Turn × List Turn :=
  match s.schedule with
  | t :: ts => (t, ts)
  | [] => (if s.performEnabled then .unit else .host, [])

/-- One turn. -/
def takeTurn (t : Turn) (s : State) : Result :=
  match t with
  | .host => hostTurn s
  | .unit => unitTurn s
  | .reset => .next s.platformReset

/-- One step of the interleaving. A state with a reserved ERR code is ill-formed (93_implementation_defined.md;
log 7). -/
def interleaveStep (s : State) : Result :=
  if 7 ≤ s.err.toNat then .refused (.reservedErrorCode s.err.toNat)
  else takeTurn (nextTurn s).1 { s with schedule := (nextTurn s).2 }

/-- The state in which `w` has just been written to CMD and accepted, and the unit moves next: what
`State.withFetchWord` places (log 2). HALT and ERR are cleared, because a halted unit accepts no command (R20). -/
def placeCommand (s : State) (w : Word) : State :=
  let s' := writeCmd (((s.setErr 0).setHalt false).setBusy false) w
  { s' with schedule := .unit :: s'.schedule }

end Sys2Proof.Machine
end

