-- ==== Sys2Proof/Machine/Step.lean ====
section
/-! DEFINITION. One step of the machine, and where the next command is taken from. -/

namespace Sys2Proof.Machine

/-- One step: the next turn of the interleaving (20_memory.md R50). -/
def step (s : State) : Host.Outcome State Fault Refusal := interleaveStep s

/-- The block fetches no instructions (10_state.md R17): its next command is the latched one. `s` with the word
latched as an accepted CMD write latches it (R20) and the unit's turn next (log 2). -/
def State.withFetchWord (s : State) (nbits w : Nat) : State :=
  placeCommand s (BitVec.ofNat 32 (w % 2 ^ nbits))

end Sys2Proof.Machine
end

