-- ==== Sys2Proof/Laws/PerInstr.lean ====
section
/-! SUPPORT. One lemma per instruction: its fields are legal, and its word has them and decodes to it
(30_encoding.md R56, R61, R62). -/

namespace Sys2Proof.Laws.Encoding

def Statement (i : Instr) : Prop :=
  i.wf = true ∧ fieldsOf (encode i) = instrFields i ∧ decode (encode i) = .ok i

theorem pack : Statement .pack := ⟨rfl, by decide, rfl⟩
theorem unpack : Statement .unpack := ⟨rfl, by decide, rfl⟩
theorem rotl1S : Statement .rotl1S := ⟨rfl, by decide, rfl⟩
theorem rotl1V128 : Statement .rotl1V128 := ⟨rfl, by decide, rfl⟩
theorem rotl1V256 : Statement .rotl1V256 := ⟨rfl, by decide, rfl⟩
theorem equal : Statement .equal := ⟨rfl, by decide, rfl⟩

end Sys2Proof.Laws.Encoding
end

