-- ==== Sys2Proof/Machine/HostCode.lean ====
section
/-! DEFINITION. The host programs of 30_encoding.md R64 and R65 as lists of host operations: the forms of the
textual syntax, the pseudo-instructions with their exact expansions, REPEAT, and wide DATA accesses as their
bytes (20_memory.md R45). -/

namespace Sys2Proof.Machine

/-- `W reg, v` (R64). -/
def asmW (r : Reg) (v : Word) : HostOp := .regWrite (regOffset r) Config.regW v

/-- `R reg` (R64). -/
def asmR (r : Reg) : HostOp := .regRead (regOffset r) Config.regW

/-- `CMD w` (R64). -/
def asmCmd (w : Word) : HostOp := asmW .cmd w

/-- `PACK dst, src, n` (R65). -/
def asmPack (dst src n : Word) : List HostOp :=
  [asmW .addrA dst, asmW .addrB src, asmW .len n, asmCmd 0x00000001]

/-- `UNPACK dst, src, n` (R65). -/
def asmUnpack (dst src n : Word) : List HostOp :=
  [asmW .addrA dst, asmW .addrB src, asmW .len n, asmCmd 0x00000002]

/-- `ROTL1.S buf, n` (R65). -/
def asmRotl1S (buf n : Word) : List HostOp := [asmW .addrA buf, asmW .len n, asmCmd 0x00000003]

/-- `ROTL1.V128 buf, n` (R65). -/
def asmRotl1V128 (buf n : Word) : List HostOp := [asmW .addrA buf, asmW .len n, asmCmd 0x00000013]

/-- `ROTL1.V256 buf, n` (R65). -/
def asmRotl1V256 (buf n : Word) : List HostOp := [asmW .addrA buf, asmW .len n, asmCmd 0x00000023]

/-- `EQUAL a, b, n` (R65). -/
def asmEqual (a b n : Word) : List HostOp :=
  [asmW .addrA a, asmW .addrB b, asmW .len n, asmCmd 0x00000004]

/-- A wide host write of DATA: its bytes in increasing address order, little-endian (R45, R39). -/
def asmWideWrite (addr : Nat) : Nat → Nat → List HostOp
  | 0, _ => []
  | n + 1, v => .dataWrite addr (BitVec.ofNat 8 v) :: asmWideWrite (addr + 1) n (v / 256)

/-- A wide host read of DATA: its bytes in increasing address order (R45). -/
def asmWideRead (addr : Nat) : Nat → List HostOp
  | 0 => []
  | n + 1 => .dataRead addr :: asmWideRead (addr + 1) n

/-- The operations of a host program in order: the lines between `REPEAT n` and `END` run n times (R64). -/
def hostOps : HostProgram → List HostOp
  | .done => []
  | .run ops rest => ops ++ hostOps rest
  | .repeatN n body rest => (List.replicate n (hostOps body)).flatten ++ hostOps rest

end Sys2Proof.Machine
end

