-- ==== Sys2Proof/Safety.lean ====
section
/-! DEFINITION. The terms in which the claims are stated: what a step leaves alone, the state after an error as
60_exceptions.md R93 writes it, the values the spec's formulas speak of, when a command is ready, sequences of
commands, the invariant, and when a run ends successfully. -/

namespace Sys2Proof.Machine

/-! What is left alone. -/

/-- The arguments and the four operand registers are unchanged. -/
abbrev SameRegisters (s t : State) : Prop :=
  t.cfg = s.cfg ∧ t.len = s.len ∧ t.addrA = s.addrA ∧ t.addrB = s.addrB ∧ t.nframes = s.nframes

/-- The host's side is unchanged: what it has still to run, whose turn comes next, what it has read. -/
abbrev SameHost (s t : State) : Prop :=
  t.program = s.program ∧ t.schedule = s.schedule ∧ t.reads = s.reads

/-- Every DATA byte outside `Range(a, n)` (00_scope.md R11) reads as before. -/
abbrev SameOutside (s t : State) (a n : Nat) : Prop :=
  ∀ x, x < a ∨ a + n ≤ x → t.data.byteAt x = s.data.byteAt x

/-- A perform that completed and wrote no flag but BUSY (10_state.md R26, R33): every other bit of STATUS, the
registers and the host's side are unchanged. -/
abbrev Completed (s t : State) : Prop :=
  SameRegisters s t ∧ SameHost s t ∧ t.latch = none ∧ t.status = s.status &&& 0xFFFFFFFE#32

/-- The state after an error with code `c` (60_exceptions.md R93): ERR, bits 7:4, is `c`, HALT, bit 2, is 1, BUSY,
bit 0, is 0; EQ, OVR, DATA and everything else are unchanged; `L` is invalid. -/
def afterError (s : State) (c : Nat) : State :=
  { s with
    status := (s.status &&& 0xFFFFFF0A#32) ||| BitVec.ofNat 32 (16 * c + 4)
    latch := none }

/-! Values. -/

/-- `MemRead(a, n)` (00_scope.md R10): the little-endian value of `n` bytes, none where one is UNWRITTEN. -/
def memValue (m : Memory) (a n : Nat) : Option Nat :=
  match m.readBytes a n with
  | .ok vs => some (leValue vs)
  | .error _ => none

/-- The number of 1 bits among the lowest `n` bits of `v` (41_rotate.md R88). -/
def onesCount (n v : Nat) : Nat := ((List.range n).filter fun p => v.testBit p).length

/-- The three rotation commands. -/
abbrev rotations : List Instr := [.rotl1S, .rotl1V128, .rotl1V256]

/-! When a command is ready to complete: no check of 60_exceptions.md R96 fails. -/

/-- Nothing stops PACK (40_pack.md R66). -/
abbrev PackReady (s : State) (l : Latched) : Prop :=
  s.latch = some l ∧ 0 < l.len.toNat ∧ l.len.toNat % 8 = 0 ∧
    l.a.toNat + l.len.toNat / 8 ≤ s.cfg.memSize ∧ l.b.toNat + l.len.toNat ≤ s.cfg.memSize ∧
    (l.a.toNat + l.len.toNat / 8 ≤ l.b.toNat ∨ l.b.toNat + l.len.toNat ≤ l.a.toNat) ∧
    ∀ k < l.len.toNat, s.data.byteAt (l.b.toNat + k) = some 0x00#8 ∨ s.data.byteAt (l.b.toNat + k) = some 0x01#8

/-- Nothing stops UNPACK (40_pack.md R68). -/
abbrev UnpackReady (s : State) (l : Latched) : Prop :=
  s.latch = some l ∧ 0 < l.len.toNat ∧ l.len.toNat % 8 = 0 ∧
    l.a.toNat + l.len.toNat ≤ s.cfg.memSize ∧ l.b.toNat + l.len.toNat / 8 ≤ s.cfg.memSize ∧
    (l.a.toNat + l.len.toNat ≤ l.b.toNat ∨ l.b.toNat + l.len.toNat / 8 ≤ l.a.toNat) ∧
    ∀ k < l.len.toNat / 8, (s.data.byteAt (l.b.toNat + k)).isSome

/-- Nothing stops a rotation (41_rotate.md R79). -/
abbrev RotateReady (s : State) (l : Latched) : Prop :=
  s.latch = some l ∧ l.nframes = 1 ∧ l.len.toNat ∈ [32, 64, 128, 256, 512, 1024, 2048] ∧
    l.a.toNat + l.len.toNat / 8 ≤ s.cfg.memSize ∧
    ∀ k < l.len.toNat / 8, (s.data.byteAt (l.a.toNat + k)).isSome

/-- Nothing stops EQUAL (42_compare.md R89). -/
abbrev EqualReady (s : State) (l : Latched) : Prop :=
  s.latch = some l ∧ 0 < l.len.toNat ∧ l.len.toNat % 8 = 0 ∧
    l.a.toNat + l.len.toNat / 8 ≤ s.cfg.memSize ∧ l.b.toNat + l.len.toNat / 8 ≤ s.cfg.memSize ∧
    ∀ k < l.len.toNat / 8, (s.data.byteAt (l.a.toNat + k)).isSome ∧ (s.data.byteAt (l.b.toNat + k)).isSome

/-! The numbered checks of 60_exceptions.md R96. -/

/-- Check `k` of R96 fails for the latched command `l` in `s`; 2 to 7 are about the decoded command. -/
def checkFails (s : State) (l : Latched) (k : Nat) : Prop :=
  match k, decode l.cmd with
  | 1, .error _ => True
  | 2, .ok i => i ∈ rotations ∧ l.nframes.toNat ≠ 1
  | 3, .ok i =>
    if i ∈ rotations then l.len.toNat ∉ [32, 64, 128, 256, 512, 1024, 2048]
    else l.len.toNat = 0 ∨ l.len.toNat % 8 ≠ 0
  | 4, .ok i => ∃ r ∈ readSpans i l ++ writeSpans i l, s.cfg.memSize < r.start + r.len
  | 5, .ok i =>
    i ∈ [Instr.pack, Instr.unpack] ∧ ∃ x, ∃ r ∈ readSpans i l, ∃ w ∈ writeSpans i l, r.has x = true ∧ w.has x = true
  | 6, .ok i => ∃ x, (∃ r ∈ readSpans i l, r.has x = true) ∧ s.data.byteAt x = none
  | 7, .ok i => i = .pack ∧ ∃ j < l.len.toNat, ∃ v, s.data.byteAt (l.b.toNat + j) = some v ∧ v ≠ 0x00#8 ∧ v ≠ 0x01#8
  | _, _ => False

/-- What a perform answers when check `k` of R96 is the first that fails: the error's code (R91), the successful
no-op of the scalar rotation (41_rotate.md R84), or the model fault Uninit at an UNWRITTEN byte the command reads. -/
def checkOutcome (s : State) (l : Latched) (k : Nat) (o : Result) : Prop :=
  match k, decode l.cmd with
  | 1, .error _ => o = .next (afterError s 3)
  | 2, .ok _ => o = .next (afterError s 2)
  | 3, .ok i =>
    if i = .rotl1S ∧ s.cfg.scalarUnsupportedNoop = true then
      o = .next { s with status := s.status &&& 0xFFFFFFFE#32, latch := none }
    else if i ∈ rotations then o = .next (afterError s 2)
    else o = .next (afterError s 1)
  | 4, .ok _ => o = .next (afterError s 4)
  | 5, .ok _ => o = .next (afterError s 5)
  | 6, .ok i => ∃ x, o = .fault (.uninit i x) ∧ (∃ r ∈ readSpans i l, r.has x = true) ∧ s.data.byteAt x = none
  | 7, .ok _ => o = .next (afterError s 6)
  | _, _ => False

/-- The one failing check that ends a command successfully: ROTL1.S with one frame, an unsupported length, and
SCALAR_UNSUPPORTED_NOOP true (41_rotate.md R84). -/
def isScalarNoop (s : State) (l : Latched) : Prop :=
  decode l.cmd = .ok .rotl1S ∧ l.nframes = 1 ∧ l.len.toNat ∉ [32, 64, 128, 256, 512, 1024, 2048] ∧
    s.cfg.scalarUnsupportedNoop = true

/-- The latched command `l` fails a check of R96 and is not the scalar no-op: performed, it raises, unless the first
check that fails is the model fault Uninit, after which there is no next state. -/
def failsACheck (s : State) (l : Latched) : Prop :=
  (∃ k, 1 ≤ k ∧ k ≤ 7 ∧ checkFails s l k) ∧ ¬ isScalarNoop s l

/-! Sequences of commands and of steps. -/

/-- The command `l`, latched and pending in `s`, is performed (60_exceptions.md R95). -/
def performCommand (l : Latched) (s : State) : Result :=
  perform { s with latch := some l, status := s.status ||| 0x00000001#32 }

/-- The commands `ls` are performed in order, each latched when the one before it has completed (R103). -/
def performCommands : List Latched → State → Result
  | [], s => .next s
  | l :: ls, s =>
    match performCommand l s with
    | .next t => performCommands ls t
    | .fault r => .fault r
    | .refused r => .refused r

/-- A latched rotation of `n` bits at `a`, any of the three variants (41_rotate.md R81, R82, R83). -/
abbrev IsRotation (l : Latched) (a n : Nat) : Prop :=
  l.cmd ∈ [0x00000003#32, 0x00000013#32, 0x00000023#32] ∧ l.nframes = 1 ∧ l.a.toNat = a ∧ l.len.toNat = n

/-- The host operations `os` take effect one after another (20_memory.md R50). -/
def runHostOps : List HostOp → State → Result
  | [], s => .next s
  | o :: os, s =>
    match hostOp o s with
    | .next t => runHostOps os t
    | .fault r => .fault r
    | .refused r => .refused r

/-- `k` steps, ending at the first fault or refusal. -/
def runSteps : Nat → State → Result
  | 0, s => .next s
  | k + 1, s =>
    match step s with
    | .next t => runSteps k t
    | .fault r => .fault r
    | .refused r => .refused r

/-- A run of `k` steps ends successfully (70_reset_and_hazards.md R119): the host program has executed its last
operation, BUSY is 0, and no fault and no refusal is recorded. HALT may be 1. -/
def runEndsSuccessfully (k : Nat) (s : State) : Prop :=
  ∃ t, runSteps k s = .next t ∧ t.program = [] ∧ t.busy = false

/-! The invariant. -/

/-- What every reachable state keeps: the bound on MEM_SIZE (00_scope.md R7), DATA in its canonical form and inside
MEM_SIZE (10_state.md R36), `L` valid exactly while BUSY = 1 (R33), BUSY = 0 while HALT = 1 (R93), ERR = 0 exactly
when HALT = 0 (R30), no reserved code in ERR (60_exceptions.md R91), bits 31:8 of STATUS 0 (R31). -/
structure Inv (s : State) : Prop where
  cfg_wf : s.cfg.wf
  data_wf : s.data.wf
  data_within : s.data.within s.cfg.memSize
  latch_iff_busy : s.latch.isSome = s.busy
  not_busy_while_halted : s.halt = true → s.busy = false
  err_zero_iff_not_halted : s.err = 0 ↔ s.halt = false
  err_not_reserved : s.err.toNat ≤ 6
  status_reserved_zero : ∀ j, 8 ≤ j → s.status.getLsbD j = false

end Sys2Proof.Machine
end

