-- ==== Sys2Proof/Certificates/Slice0/Obligations.lean ====
section
/-! DEFINITION. The statements for the provers. Each docstring names the rule it formalises; file names are those of
spec/. -/

open Sys2Proof Sys2Proof.Machine

/-! Encoding. -/

/-- 30_encoding.md R61: a word decodes to a command exactly when it is that command's word, of all 2^32 words; the
six words, with their OP and VAR, are the table's. -/
def Obligations.LegalCommandWordsAreExactlySix : Prop :=
  (∀ (w : Word) (i : Instr), decode w = .ok i ↔ w = encode i) ∧
    (encode .pack = 0x00000001#32 ∧ fieldsOf 0x00000001#32 = { op := 0x1, var := 0, rsv := 0 }) ∧
    (encode .unpack = 0x00000002#32 ∧ fieldsOf 0x00000002#32 = { op := 0x2, var := 0, rsv := 0 }) ∧
    (encode .rotl1S = 0x00000003#32 ∧ fieldsOf 0x00000003#32 = { op := 0x3, var := 0, rsv := 0 }) ∧
    (encode .rotl1V128 = 0x00000013#32 ∧ fieldsOf 0x00000013#32 = { op := 0x3, var := 1, rsv := 0 }) ∧
    (encode .rotl1V256 = 0x00000023#32 ∧ fieldsOf 0x00000023#32 = { op := 0x3, var := 2, rsv := 0 }) ∧
    (encode .equal = 0x00000004#32 ∧ fieldsOf 0x00000004#32 = { op := 0x4, var := 0, rsv := 0 })

/-- 30_encoding.md R62: decoding, field by field (RSV is w div 64, VAR is w div 16 mod 4, OP is w mod 16); an illegal
word is latched like a legal one and raises IllegalCommand when it is performed. -/
def Obligations.DecodingFollowsTheFields : Prop :=
  (∀ w : Word,
    (w.toNat / 64 ≠ 0 → ∃ d, decode w = .error d) ∧
    (w.toNat / 64 = 0 →
      (w.toNat % 16 = 0x1 ∧ w.toNat / 16 % 4 = 0 → decode w = .ok .pack) ∧
      (w.toNat % 16 = 0x2 ∧ w.toNat / 16 % 4 = 0 → decode w = .ok .unpack) ∧
      (w.toNat % 16 = 0x3 ∧ w.toNat / 16 % 4 = 0 → decode w = .ok .rotl1S) ∧
      (w.toNat % 16 = 0x3 ∧ w.toNat / 16 % 4 = 1 → decode w = .ok .rotl1V128) ∧
      (w.toNat % 16 = 0x3 ∧ w.toNat / 16 % 4 = 2 → decode w = .ok .rotl1V256) ∧
      (w.toNat % 16 = 0x4 ∧ w.toNat / 16 % 4 = 0 → decode w = .ok .equal) ∧
      (¬ (w.toNat % 16 ∈ [1, 2, 4] ∧ w.toNat / 16 % 4 = 0) →
        ¬ (w.toNat % 16 = 0x3 ∧ w.toNat / 16 % 4 ∈ [0, 1, 2]) → ∃ d, decode w = .error d))) ∧
  (∀ (s : State) (w : Word), s.halt = false → s.busy = false →
    ∃ t, hostOp (.regWrite 0x00 32 w) s = .next t ∧ t.busy = true ∧
      t.latch = some { cmd := w, len := s.len, a := s.addrA, b := s.addrB, nframes := s.nframes }) ∧
  (∀ (s : State) (l : Latched) (d : DecodeError), s.latch = some l → decode l.cmd = .error d →
    perform s = .next (afterError s 3))

/-- 30_encoding.md R63: every word outside the six of R61 has RSV ≠ 0, a reserved OP, VAR = 3 with OP = 3, or VAR ≠ 0
with another OP, and raises IllegalCommand when performed; 0x00000000 is one of them. -/
def Obligations.EveryOtherWordRaisesIllegalCommand : Prop :=
  (∀ w : Word,
    w ∉ [0x00000001#32, 0x00000002#32, 0x00000003#32, 0x00000013#32, 0x00000023#32, 0x00000004#32] ↔
      (w.toNat / 64 ≠ 0 ∨ w.toNat % 16 = 0x0 ∨ 0x5 ≤ w.toNat % 16 ∨
        (w.toNat / 16 % 4 = 3 ∧ w.toNat % 16 = 0x3) ∨ (w.toNat / 16 % 4 ≠ 0 ∧ w.toNat % 16 ≠ 0x3))) ∧
  (∀ (s : State) (l : Latched), s.latch = some l →
    l.cmd ∉ [0x00000001#32, 0x00000002#32, 0x00000003#32, 0x00000013#32, 0x00000023#32, 0x00000004#32] →
      perform s = .next (afterError s 3)) ∧
  ∃ d, decode 0x00000000#32 = .error d

/-- Words written out bit by bit from the table of 30_encoding.md R61 (RSV, VAR, OP) decode to their commands, and
words with one field off do not. -/
def Obligations.WrittenOutWordsDecode : Prop :=
  decode 0b00000000000000000000000000_00_0001#32 = .ok .pack ∧
  decode 0b00000000000000000000000000_00_0010#32 = .ok .unpack ∧
  decode 0b00000000000000000000000000_00_0011#32 = .ok .rotl1S ∧
  decode 0b00000000000000000000000000_01_0011#32 = .ok .rotl1V128 ∧
  decode 0b00000000000000000000000000_10_0011#32 = .ok .rotl1V256 ∧
  decode 0b00000000000000000000000000_00_0100#32 = .ok .equal ∧
  decode 0b00000000000000000000000000_11_0011#32 = .error .reservedVariant ∧
  decode 0b00000000000000000000000000_01_0001#32 = .error .variantNotZero ∧
  decode 0b00000000000000000000000001_00_0011#32 = .error .reservedBits ∧
  decode 0b00000000000000000000000000_00_0101#32 = .error .reservedOp

/-! The commands: where each completes, what it writes, and what it leaves alone. -/

/-- 40_pack.md section 1: PACK, where no check fails, answers the next state in which byte i of the destination is the
OR of its eight source bytes, source byte 8i+q shifted left by q; nothing else of DATA, no register and no flag but
BUSY changes. -/
def Obligations.PackCompletes : Prop :=
  ∀ (s : State) (l : Latched) (n dst src : Nat),
    PackReady s l → l.len.toNat = n → l.a.toNat = dst → l.b.toNat = src →
    ∃ t, exec .pack s = .next t ∧
      (∀ i < n / 8, ∃ u : Nat → Byte,
        (∀ q < 8, s.data.byteAt (src + (8 * i + q)) = some (u q)) ∧
        t.data.byteAt (dst + i) =
          some (u 0 ||| u 1 <<< 1 ||| u 2 <<< 2 ||| u 3 <<< 3 ||| u 4 <<< 4 ||| u 5 <<< 5 ||| u 6 <<< 6 ||| u 7 <<< 7)) ∧
      SameOutside s t dst (n / 8) ∧ Completed s t

/-- 40_pack.md section 2: UNPACK, where no check fails, answers the next state in which byte k of the destination is 1
or 0 as bit k mod 8 of source byte k div 8 is; nothing else of DATA, no register and no flag but BUSY changes. -/
def Obligations.UnpackCompletes : Prop :=
  ∀ (s : State) (l : Latched) (n dst src : Nat),
    UnpackReady s l → l.len.toNat = n → l.a.toNat = dst → l.b.toNat = src →
    ∃ t, exec .unpack s = .next t ∧
      (∀ k < n, ∃ p : Byte, s.data.byteAt (src + k / 8) = some p ∧
        t.data.byteAt (dst + k) = some (if p.getLsbD (k % 8) then 0x01#8 else 0x00#8)) ∧
      SameOutside s t dst n ∧ Completed s t

/-- 41_rotate.md R73, the byte form: each of the three rotations, where no check fails, answers the next state in which
byte i of the array is old byte i shifted left by one with the top bit of the byte before it (cyclically) below;
nothing else of DATA, no register and no flag but BUSY changes. -/
def Obligations.RotationsComplete : Prop :=
  ∀ i ∈ [Instr.rotl1S, Instr.rotl1V128, Instr.rotl1V256], ∀ (s : State) (l : Latched) (n a : Nat),
    RotateReady s l → l.len.toNat = n → l.a.toNat = a →
    ∃ t, exec i s = .next t ∧
      (∀ k < n / 8, ∃ x y : Byte,
        s.data.byteAt (a + k) = some x ∧ s.data.byteAt (a + (k + n / 8 - 1) % (n / 8)) = some y ∧
        t.data.byteAt (a + k) = some ((x <<< 1) ||| (y >>> 7))) ∧
      SameOutside s t a (n / 8) ∧ Completed s t

/-- 42_compare.md, the body of EQUAL: EQUAL, where no check fails, answers the next state in which EQ is 1 exactly when
every byte pair matches; BUSY is 0, every other bit of STATUS, every byte of DATA and every register is unchanged. -/
def Obligations.EqualCompletes : Prop :=
  ∀ (s : State) (l : Latched) (n a b : Nat),
    EqualReady s l → l.len.toNat = n → l.a.toNat = a → l.b.toNat = b →
    ∃ t, exec .equal s = .next t ∧
      (t.status.getLsbD 1 = true ↔ ∀ k < n / 8, s.data.byteAt (a + k) = s.data.byteAt (b + k)) ∧
      t.status.getLsbD 0 = false ∧ (∀ j, 2 ≤ j → t.status.getLsbD j = s.status.getLsbD j) ∧
      t.data = s.data ∧ t.latch = none ∧ SameRegisters s t ∧ SameHost s t

/-- 41_rotate.md R76 and R77: a frame count other than 1 raises UnsupportedConfiguration for every variant, before the
length is looked at; an unsupported length raises it too, but for the scalar variant when SCALAR_UNSUPPORTED_NOOP is
true, which completes with no DATA access and no error; the default is false. -/
def Obligations.UnsupportedRotationsRaiseOrDoNothing : Prop :=
  (∀ i ∈ [Instr.rotl1S, Instr.rotl1V128, Instr.rotl1V256], ∀ (s : State) (l : Latched), s.latch = some l →
    l.nframes ≠ 1 → exec i s = .next (afterError s 2)) ∧
  (∀ i ∈ [Instr.rotl1S, Instr.rotl1V128, Instr.rotl1V256], ∀ (s : State) (l : Latched), s.latch = some l →
    l.nframes = 1 → l.len.toNat ∉ [32, 64, 128, 256, 512, 1024, 2048] →
    (i ≠ .rotl1S ∨ s.cfg.scalarUnsupportedNoop = false) → exec i s = .next (afterError s 2)) ∧
  (∀ (s : State) (l : Latched), s.latch = some l →
    l.nframes = 1 → l.len.toNat ∉ [32, 64, 128, 256, 512, 1024, 2048] → s.cfg.scalarUnsupportedNoop = true →
    exec .rotl1S s = .next { s with status := s.status &&& 0xFFFFFFFE#32, latch := none }) ∧
  State.reset.cfg.scalarUnsupportedNoop = false

/-- 60_exceptions.md R96: a perform reports the first check of the numbered list that fails, each made only if the
earlier ones pass; where none fails it completes: BUSY is 0, HALT and ERR are unchanged. -/
def Obligations.ChecksAreMadeInOrder : Prop :=
  (∀ (s : State) (l : Latched) (k : Nat), s.latch = some l → 1 ≤ k → k ≤ 7 →
    checkFails s l k → (∀ j, 1 ≤ j → j < k → ¬ checkFails s l j) → checkOutcome s l k (perform s)) ∧
  (∀ (s : State) (l : Latched), s.latch = some l → (∀ k, 1 ≤ k → k ≤ 7 → ¬ checkFails s l k) →
    ∃ t, perform s = .next t ∧ t.busy = false ∧ t.halt = s.halt ∧ t.err = s.err)

/-! PACK and UNPACK: laws. -/

/-- 40_pack.md R70: after a successful PACK, bit (p mod 8) of DATA[dst + p div 8] equals DATA[src + p]; after a
successful UNPACK, DATA[dst + p] equals bit (p mod 8) of DATA[src + p div 8]. Success is HALT = 0 afterwards. -/
def Obligations.PackAndUnpackPlaceLogicalBits : Prop :=
  (∀ (s t : State) (l : Latched), s.latch = some l → s.halt = false → exec .pack s = .next t → t.halt = false →
    ∀ p < l.len.toNat, ∃ v : Byte,
      t.data.byteAt (l.a.toNat + p / 8) = some v ∧
      t.data.byteAt (l.b.toNat + p) = some ((BitVec.ofBool (v.getLsbD (p % 8))).setWidth 8)) ∧
  (∀ (s t : State) (l : Latched), s.latch = some l → s.halt = false → exec .unpack s = .next t → t.halt = false →
    ∀ p < l.len.toNat, ∃ v : Byte,
      t.data.byteAt (l.b.toNat + p / 8) = some v ∧
      t.data.byteAt (l.a.toNat + p) = some ((BitVec.ofBool (v.getLsbD (p % 8))).setWidth 8))

/-- 40_pack.md R69: PACK and then UNPACK gives back every unpacked array of 0s and 1s, and UNPACK and then PACK gives
back every packed array, for every positive multiple of 8 and ranges that fit and do not overlap. -/
def Obligations.PackAndUnpackRoundTrip : Prop :=
  (∀ (s : State) (lp lu : Latched) (n p u u2 : Nat), s.halt = false →
    lp.cmd = 0x00000001#32 → lp.len.toNat = n → lp.a.toNat = p → lp.b.toNat = u →
    lu.cmd = 0x00000002#32 → lu.len.toNat = n → lu.a.toNat = u2 → lu.b.toNat = p →
    0 < n → n % 8 = 0 →
    p + n / 8 ≤ s.cfg.memSize → u + n ≤ s.cfg.memSize → u2 + n ≤ s.cfg.memSize →
    (p + n / 8 ≤ u ∨ u + n ≤ p) → (u2 + n ≤ p ∨ p + n / 8 ≤ u2) →
    (∀ k < n, s.data.byteAt (u + k) = some 0x00#8 ∨ s.data.byteAt (u + k) = some 0x01#8) →
    ∃ t, performCommands [lp, lu] s = .next t ∧ t.halt = false ∧
      ∀ k < n, t.data.byteAt (u2 + k) = s.data.byteAt (u + k)) ∧
  (∀ (s : State) (lu lp : Latched) (n p u p2 : Nat), s.halt = false →
    lu.cmd = 0x00000002#32 → lu.len.toNat = n → lu.a.toNat = u → lu.b.toNat = p →
    lp.cmd = 0x00000001#32 → lp.len.toNat = n → lp.a.toNat = p2 → lp.b.toNat = u →
    0 < n → n % 8 = 0 →
    p + n / 8 ≤ s.cfg.memSize → u + n ≤ s.cfg.memSize → p2 + n / 8 ≤ s.cfg.memSize →
    (p + n / 8 ≤ u ∨ u + n ≤ p) → (p2 + n / 8 ≤ u ∨ u + n ≤ p2) →
    (∀ k < n / 8, (s.data.byteAt (p + k)).isSome) →
    ∃ t, performCommands [lu, lp] s = .next t ∧ t.halt = false ∧
      ∀ k < n / 8, t.data.byteAt (p2 + k) = s.data.byteAt (p + k))

/-! Rotation: its other forms, and its laws. -/

/-- 20_memory.md R39: the value of a range has byte k of the range as its bits 8k+7 to 8k, and there is one exactly
when every byte of the range is written. -/
def Obligations.ValuesAreLittleEndian : Prop :=
  ∀ (m : Memory) (a n : Nat),
    (∀ v, memValue m a n = some v →
      v < 2 ^ (8 * n) ∧
      (∀ k < n, ∃ b : Byte, m.byteAt (a + k) = some b ∧ v / 2 ^ (8 * k) % 256 = b.toNat) ∧
      ∀ p < 8 * n, ∃ b : Byte, m.byteAt (a + p / 8) = some b ∧ v.testBit p = b.getLsbD (p % 8)) ∧
    ((∀ k < n, (m.byteAt (a + k)).isSome) → ∃ v, memValue m a n = some v)

/-- 41_rotate.md R71: a rotation replaces the N-bit value V of its array by ((V << 1) | (V >> (N-1))) mod 2^N, in which
bit p is bit (p - 1) mod N of V. -/
def Obligations.RotationRotatesTheWholeValue : Prop :=
  ∀ i ∈ [Instr.rotl1S, Instr.rotl1V128, Instr.rotl1V256], ∀ (s : State) (l : Latched) (n a : Nat),
    RotateReady s l → l.len.toNat = n → l.a.toNat = a →
    ∃ t v, exec i s = .next t ∧ memValue s.data a (n / 8) = some v ∧
      memValue t.data a (n / 8) = some (((v <<< 1) ||| (v >>> (n - 1))) % 2 ^ n) ∧
      ∀ p < n, (((v <<< 1) ||| (v >>> (n - 1))) % 2 ^ n).testBit p = v.testBit ((p + n - 1) % n)

/-- 41_rotate.md R72, the word form: for N ≥ 64 each 64-bit word is shifted left by one with the top bit of the word
before it (cyclically) below; for N = 32 the one 32-bit word takes its own top bit. -/
def Obligations.RotationCarriesBetweenWords : Prop :=
  ∀ i ∈ [Instr.rotl1S, Instr.rotl1V128, Instr.rotl1V256], ∀ (s : State) (l : Latched) (n a : Nat),
    RotateReady s l → l.len.toNat = n → l.a.toNat = a →
    ∃ t, exec i s = .next t ∧
      (64 ≤ n → ∀ j < n / 64, ∃ w c,
        memValue s.data (a + 8 * j) 8 = some w ∧
        memValue s.data (a + 8 * ((j + n / 64 - 1) % (n / 64))) 8 = some c ∧
        memValue t.data (a + 8 * j) 8 = some ((w <<< 1) % 2 ^ 64 ||| (c >>> 63))) ∧
      (n = 32 → ∃ w, memValue s.data a 4 = some w ∧
        memValue t.data a 4 = some ((w <<< 1) % 2 ^ 32 ||| (w >>> 31)))

/-- 41_rotate.md R74, the lane form: for a lane width of 128 or 256 bits and N at least that, each lane is shifted left
by one with the top bit of the lane before it (cyclically) below. -/
def Obligations.RotationCarriesBetweenLanes : Prop :=
  ∀ i ∈ [Instr.rotl1S, Instr.rotl1V128, Instr.rotl1V256], ∀ w ∈ [128, 256], ∀ (s : State) (l : Latched) (n a : Nat),
    RotateReady s l → l.len.toNat = n → l.a.toNat = a → w ≤ n →
    ∃ t, exec i s = .next t ∧
      ∀ m < n / w, ∃ v c,
        memValue s.data (a + w / 8 * m) (w / 8) = some v ∧
        memValue s.data (a + w / 8 * ((m + n / w - 1) % (n / w))) (w / 8) = some c ∧
        memValue t.data (a + w / 8 * m) (w / 8) = some ((v <<< 1) % 2 ^ w ||| (c >>> (w - 1)))

/-- 41_rotate.md R78: the three variants with the same latched operands answer the same next state, whatever DATA holds,
for every supported length (and for every other length unless the scalar no-op is on); each gives the value of R71. -/
def Obligations.VariantsAgree : Prop :=
  (∀ i ∈ [Instr.rotl1S, Instr.rotl1V128, Instr.rotl1V256], ∀ j ∈ [Instr.rotl1S, Instr.rotl1V128, Instr.rotl1V256],
    ∀ (s t : State) (l : Latched), s.latch = some l →
    (l.len.toNat ∈ [32, 64, 128, 256, 512, 1024, 2048] ∨ s.cfg.scalarUnsupportedNoop = false) →
    exec i s = .next t → exec j s = .next t) ∧
  (∀ i ∈ [Instr.rotl1S, Instr.rotl1V128, Instr.rotl1V256], ∀ (s : State) (l : Latched), RotateReady s l →
    ∃ t v, exec i s = .next t ∧ memValue s.data l.a.toNat (l.len.toNat / 8) = some v ∧
      memValue t.data l.a.toNat (l.len.toNat / 8) =
        some (((v <<< 1) ||| (v >>> (l.len.toNat - 1))) % 2 ^ l.len.toNat))

/-- 41_rotate.md R85: N rotations, any mix of variants, of one packed array of N bits give back its bytes. -/
def Obligations.RotationIsPeriodic : Prop :=
  ∀ (s : State) (ls : List Latched) (n a : Nat), s.halt = false →
    n ∈ [32, 64, 128, 256, 512, 1024, 2048] → a + n / 8 ≤ s.cfg.memSize →
    (∀ k < n / 8, (s.data.byteAt (a + k)).isSome) →
    ls.length = n → (∀ l ∈ ls, IsRotation l a n) →
    ∃ t, performCommands ls s = .next t ∧ t.halt = false ∧
      ∀ k < n / 8, t.data.byteAt (a + k) = s.data.byteAt (a + k)

/-- 41_rotate.md R86: a single 1 at logical position p is at position (p + k) mod N after k rotations. -/
def Obligations.SingleBitMovesOnePositionPerRotation : Prop :=
  ∀ (s : State) (ls : List Latched) (n a p : Nat), s.halt = false →
    n ∈ [32, 64, 128, 256, 512, 1024, 2048] → a + n / 8 ≤ s.cfg.memSize → p < n →
    memValue s.data a (n / 8) = some (2 ^ p) → (∀ l ∈ ls, IsRotation l a n) →
    ∃ t, performCommands ls s = .next t ∧ t.halt = false ∧
      memValue t.data a (n / 8) = some (2 ^ ((p + ls.length) % n))

/-- 41_rotate.md R87: a rotation leaves an array unchanged exactly when its bytes are all 0x00 or all 0xFF. -/
def Obligations.FixedPointsAreAllZerosAndAllOnes : Prop :=
  ∀ i ∈ [Instr.rotl1S, Instr.rotl1V128, Instr.rotl1V256], ∀ (s : State) (l : Latched) (n a : Nat),
    RotateReady s l → l.len.toNat = n → l.a.toNat = a →
    ∃ t, exec i s = .next t ∧
      ((∀ k < n / 8, t.data.byteAt (a + k) = s.data.byteAt (a + k)) ↔
        (∀ k < n / 8, s.data.byteAt (a + k) = some 0x00#8) ∨ (∀ k < n / 8, s.data.byteAt (a + k) = some 0xFF#8))

/-- 41_rotate.md R88: a rotation keeps the number of 1 bits, and an array whose bytes all equal c gets bytes that all
equal the 8-bit left rotation of c (0xAA becomes 0x55). -/
def Obligations.RotationPreservesOnes : Prop :=
  ∀ i ∈ [Instr.rotl1S, Instr.rotl1V128, Instr.rotl1V256], ∀ (s : State) (l : Latched) (n a : Nat),
    RotateReady s l → l.len.toNat = n → l.a.toNat = a →
    ∃ t v w, exec i s = .next t ∧ memValue s.data a (n / 8) = some v ∧ memValue t.data a (n / 8) = some w ∧
      onesCount n w = onesCount n v ∧
      (∀ c : Byte, (∀ k < n / 8, s.data.byteAt (a + k) = some c) →
        ∀ k < n / 8, t.data.byteAt (a + k) = some ((c <<< 1) ||| (c >>> 7))) ∧
      ((∀ k < n / 8, s.data.byteAt (a + k) = some 0xAA#8) → ∀ k < n / 8, t.data.byteAt (a + k) = some 0x55#8)

/-- 42_compare.md R90: EQUAL after one ROTL1.S on a buffer and one ROTL1.V128 or ROTL1.V256 on an identical copy, with
the same N, gives EQ = 1. -/
def Obligations.VariantsCompareEqual : Prop :=
  ∀ (s : State) (lS lV lE : Latched) (n a b : Nat), s.halt = false →
    n ∈ [32, 64, 128, 256, 512, 1024, 2048] →
    lS.cmd = 0x00000003#32 → IsRotation lS a n →
    (lV.cmd = 0x00000013#32 ∨ lV.cmd = 0x00000023#32) → IsRotation lV b n →
    lE.cmd = 0x00000004#32 → lE.len.toNat = n → lE.a.toNat = a → lE.b.toNat = b →
    a + n / 8 ≤ s.cfg.memSize → b + n / 8 ≤ s.cfg.memSize → (a + n / 8 ≤ b ∨ b + n / 8 ≤ a) →
    (∀ k < n / 8, (s.data.byteAt (a + k)).isSome ∧ s.data.byteAt (b + k) = s.data.byteAt (a + k)) →
    ∃ t, performCommands [lS, lV, lE] s = .next t ∧ t.halt = false ∧ t.eqFlag = true

/-! Errors and the flags of STATUS. -/

/-- 60_exceptions.md R93 and R100: a perform that raises changes STATUS as R93 says (ERR gets a code of R91, HALT 1,
BUSY 0, EQ and OVR as they were), makes `L` invalid, and changes nothing else. -/
def Obligations.ErrorEntryChangesOnlyStatus : Prop :=
  ∀ s t : State, s.halt = false → perform s = .next t → t.halt = true → ∃ c, 1 ≤ c ∧ c ≤ 6 ∧ t = afterError s c

/-- 10_state.md R28: HALT becomes 1 in the perform step of a command that raises, and nowhere else; it stays 1 until
reset; while it is 1 the unit performs nothing and a CMD write is ignored. -/
def Obligations.HaltIsSetByAnErrorAndStays : Prop :=
  ∀ s t : State, step s = .next t →
    (s.halt = false → t.halt = true →
      (nextTurn s).1 = .unit ∧ s.busy = true ∧
      ∃ c, 1 ≤ c ∧ c ≤ 6 ∧ t = afterError { s with schedule := (nextTurn s).2 } c) ∧
    (∀ l, (nextTurn s).1 = .unit → s.busy = true → s.halt = false → s.latch = some l →
      (t.halt = true ↔ failsACheck s l)) ∧
    (s.halt = true → (nextTurn s).1 ≠ .reset → t.halt = true) ∧
    (s.halt = true → (nextTurn s).1 = .unit → t = { s with schedule := (nextTurn s).2 }) ∧
    (∀ w rest, s.halt = true → (nextTurn s).1 = .host → s.program = .regWrite 0x00 32 w :: rest →
      t = { s with schedule := (nextTurn s).2, program := rest })

/-- 60_exceptions.md R101: HALT, ERR and OVR are cleared only by reset; while HALT = 1 no perform step is enabled and a
CMD write changes nothing; the host may still read STATUS, read and write DATA, and read and write the operand
registers. -/
def Obligations.OnlyResetLeavesTheHaltedState : Prop :=
  (∀ s t : State, step s = .next t → (nextTurn s).1 ≠ .reset →
    (s.halt = true → t.halt = true ∧ t.err = s.err) ∧ (s.ovr = true → t.ovr = true)) ∧
  (∀ s t : State, step s = .next t → (nextTurn s).1 = .reset → t.halt = false ∧ t.err = 0 ∧ t.ovr = false) ∧
  (∀ s : State, s.halt = true →
    s.performEnabled = false ∧ (∀ w, hostOp (.regWrite 0x00 32 w) s = .next s) ∧
    (∀ off ∈ [0x04, 0x08, 0x0C, 0x10, 0x14], ∃ t, hostOp (.regRead off 32) s = .next t) ∧
    (∀ off ∈ [0x04, 0x08, 0x0C, 0x10], ∀ v, ∃ t, hostOp (.regWrite off 32 v) s = .next t) ∧
    (s.busy = false → ∀ x < s.cfg.memSize, ∀ v,
      (∃ t, hostOp (.dataRead x) s = .next t) ∧ ∃ t, hostOp (.dataWrite x v) s = .next t))

/-- 10_state.md R26: BUSY is set to 1 by an accepted CMD write, cleared by the perform step, whether the command
succeeds or raises, cleared by reset, and written by nothing else. -/
def Obligations.BusyFollowsCommandWritesAndPerforms : Prop :=
  ∀ s t : State, step s = .next t →
    ((nextTurn s).1 = .reset → t.busy = false) ∧
    ((nextTurn s).1 = .unit → s.busy = true → s.halt = false → t.busy = false) ∧
    ((nextTurn s).1 = .unit → s.busy = false ∨ s.halt = true → t.busy = s.busy) ∧
    (∀ w rest, (nextTurn s).1 = .host → s.program = .regWrite 0x00 32 w :: rest → s.busy = false → s.halt = false →
      t.busy = true) ∧
    ((nextTurn s).1 = .host → t.busy = s.busy ∨
      (s.busy = false ∧ s.halt = false ∧ ∃ w rest, s.program = .regWrite 0x00 32 w :: rest))

/-- 10_state.md R27: EQ changes only by reset, which clears it, or by the perform of a successful EQUAL, after which it
is 1 exactly when the compared ranges are equal; PACK, UNPACK, ROTL1 and every command that raises leave it. -/
def Obligations.EqIsWrittenOnlyByEqual : Prop :=
  ∀ s t : State, step s = .next t →
    ((nextTurn s).1 = .reset → t.eqFlag = false) ∧
    ((nextTurn s).1 = .host → t.eqFlag = s.eqFlag) ∧
    ((nextTurn s).1 = .unit → t.eqFlag = s.eqFlag ∨
      (s.halt = false ∧ t.halt = false ∧ ∃ l, s.latch = some l ∧ decode l.cmd = .ok .equal)) ∧
    (∀ l, (nextTurn s).1 = .unit → s.busy = true → s.halt = false → t.halt = false →
      s.latch = some l → decode l.cmd = .ok .equal →
      (t.eqFlag = true ↔
        ∀ k < l.len.toNat / 8, s.data.byteAt (l.a.toNat + k) = s.data.byteAt (l.b.toNat + k)))

/-- 10_state.md R29: a CMD write made while BUSY = 1 and HALT = 0 sets OVR, starts no command and changes no other
state; OVR stays 1 until reset, and nothing else sets it. -/
def Obligations.OvrRecordsAnIgnoredCommandWrite : Prop :=
  ∀ s t : State, step s = .next t →
    (∀ w rest, (nextTurn s).1 = .host → s.program = .regWrite 0x00 32 w :: rest → s.busy = true → s.halt = false →
      t = { s with schedule := (nextTurn s).2, program := rest, status := s.status ||| 0x00000008#32 }) ∧
    (s.ovr = true → (nextTurn s).1 ≠ .reset → t.ovr = true) ∧
    ((nextTurn s).1 = .reset → t.ovr = false) ∧
    (s.ovr = false → t.ovr = true →
      (nextTurn s).1 = .host ∧ s.busy = true ∧ s.halt = false ∧ ∃ w rest, s.program = .regWrite 0x00 32 w :: rest)

/-! The host's accesses. -/

/-- 10_state.md R20: what a host write of w to CMD does, halted, busy and idle; CMD reads as 0. -/
def Obligations.CommandWriteLatchesOrIsIgnored : Prop :=
  ∀ (s : State) (w : Word),
    (s.halt = true → hostOp (.regWrite 0x00 32 w) s = .next s) ∧
    (s.halt = false → s.busy = true →
      hostOp (.regWrite 0x00 32 w) s = .next { s with status := s.status ||| 0x00000008#32 }) ∧
    (s.halt = false → s.busy = false →
      hostOp (.regWrite 0x00 32 w) s = .next
        { s with
          status := s.status ||| 0x00000001#32
          latch := some { cmd := w, len := s.len, a := s.addrA, b := s.addrB, nframes := s.nframes } }) ∧
    hostOp (.regRead 0x00 32) s = .next { s with reads := .reg .cmd 0x00000000#32 :: s.reads }

/-- 10_state.md section 2: every 32-bit value can be written to LEN, ADDR_A, ADDR_B and NFRAMES, reads back unchanged,
and changes nothing else. -/
def Obligations.OperandRegistersHoldEveryValue : Prop :=
  ∀ (s : State) (v : Word),
    (hostOp (.regWrite 0x04 32 v) s = .next { s with len := v } ∧
      hostOp (.regRead 0x04 32) { s with len := v } = .next { s with len := v, reads := .reg .len v :: s.reads }) ∧
    (hostOp (.regWrite 0x08 32 v) s = .next { s with addrA := v } ∧
      hostOp (.regRead 0x08 32) { s with addrA := v } =
        .next { s with addrA := v, reads := .reg .addrA v :: s.reads }) ∧
    (hostOp (.regWrite 0x0C 32 v) s = .next { s with addrB := v } ∧
      hostOp (.regRead 0x0C 32) { s with addrB := v } =
        .next { s with addrB := v, reads := .reg .addrB v :: s.reads }) ∧
    (hostOp (.regWrite 0x10 32 v) s = .next { s with nframes := v } ∧
      hostOp (.regRead 0x10 32) { s with nframes := v } =
        .next { s with nframes := v, reads := .reg .nframes v :: s.reads })

/-- 10_state.md R31: bits 31:8 of STATUS and the whole of offsets 0x18 and 0x1C always read 0; bits 7:0 of STATUS read
as they are; writes to the three are ignored. -/
def Obligations.ReservedBitsReadZero : Prop :=
  ∀ s : State,
    (∃ v : Word, hostOp (.regRead 0x14 32) s = .next { s with reads := .reg .status v :: s.reads } ∧
      (∀ j, 8 ≤ j → v.getLsbD j = false) ∧ ∀ j < 8, v.getLsbD j = s.status.getLsbD j) ∧
    hostOp (.regRead 0x18 32) s = .next { s with reads := .reg .reserved18 0x00000000#32 :: s.reads } ∧
    hostOp (.regRead 0x1C 32) s = .next { s with reads := .reg .reserved1C 0x00000000#32 :: s.reads } ∧
    ∀ v, hostOp (.regWrite 0x14 32 v) s = .next s ∧ hostOp (.regWrite 0x18 32 v) s = .next s ∧
      hostOp (.regWrite 0x1C 32 v) s = .next s

/-- 10_state.md R19: the host has a move for an aligned 32-bit access at offsets 0x00 to 0x1C; any other access of the
window is refused. -/
def Obligations.OnlyAlignedWordAccessesHaveAMove : Prop :=
  ∀ (s : State) (off width : Nat) (v : Word),
    (width = 32 ∧ off % 4 = 0 ∧ off < 0x20 →
      (∃ t, hostOp (.regWrite off width v) s = .next t) ∧ ∃ t, hostOp (.regRead off width) s = .next t) ∧
    (¬ (width = 32 ∧ off % 4 = 0 ∧ off < 0x20) →
      hostOp (.regWrite off width v) s = .refused (.registerAccess off width) ∧
      hostOp (.regRead off width) s = .refused (.registerAccess off width))

/-- 20_memory.md section 4: the footprint of a latched command is the table's, for every latched command whatever its
outcome, and empty for an Illegal word. N/8 is N div 8. -/
def Obligations.FootprintsAreTheTables : Prop :=
  ∀ (l : Latched) (n a b x : Nat), l.len.toNat = n → l.a.toNat = a → l.b.toNat = b →
    (decode l.cmd = .ok .pack →
      (inFootprint l x = true ↔ (b ≤ x ∧ x < b + n) ∨ (a ≤ x ∧ x < a + n / 8))) ∧
    (decode l.cmd = .ok .unpack →
      (inFootprint l x = true ↔ (b ≤ x ∧ x < b + n / 8) ∨ (a ≤ x ∧ x < a + n))) ∧
    (∀ i ∈ [Instr.rotl1S, Instr.rotl1V128, Instr.rotl1V256], decode l.cmd = .ok i →
      (inFootprint l x = true ↔ a ≤ x ∧ x < a + n / 8)) ∧
    (decode l.cmd = .ok .equal →
      (inFootprint l x = true ↔ (a ≤ x ∧ x < a + n / 8) ∨ (b ≤ x ∧ x < b + n / 8))) ∧
    (∀ d, decode l.cmd = .error d → inFootprint l x = false)

/-- 20_memory.md R51: while BUSY = 1 a host access to a DATA byte in the latched command's footprint is the model fault
HostRace; an access outside it, or while BUSY = 0, is ordinary: a write sets its byte and nothing else, a read answers a
next state with a value and changes nothing else, and the value of a written byte is that byte. (For an UNWRITTEN byte
93_implementation_defined.md allows any value, and the statement leaves it open; log 4 says how the model draws it.) -/
def Obligations.HostAccessToAPendingFootprintIsARace : Prop :=
  ∀ (s : State) (x : Nat) (v : Byte), x < s.cfg.memSize →
    (∀ l, s.busy = true → s.latch = some l → inFootprint l x = true →
      hostOp (.dataRead x) s = .fault (.hostRace x) ∧ hostOp (.dataWrite x v) s = .fault (.hostRace x)) ∧
    ((s.busy = false ∨ ∃ l, s.latch = some l ∧ inFootprint l x = false) →
      (∃ t, hostOp (.dataWrite x v) s = .next t ∧ t.data.byteAt x = some v ∧
        (∀ y, y ≠ x → t.data.byteAt y = s.data.byteAt y) ∧ t = { s with data := t.data }) ∧
      (∃ b, hostOp (.dataRead x) s = .next { s with reads := .data x b :: s.reads } ∧
        ∀ c, s.data.byteAt x = some c → b = c))

/-- 20_memory.md R45: the host accesses DATA one byte at a time; a wider access is its byte accesses in increasing
address order, little-endian; none raises an error in the unit; an address at or above MEM_SIZE is refused. -/
def Obligations.WideHostAccessesAreTheirBytes : Prop :=
  (∀ addr n v, asmWideWrite addr n v =
    (List.range n).map fun k => HostOp.dataWrite (addr + k) (BitVec.ofNat 8 (v / 2 ^ (8 * k)))) ∧
  (∀ addr n, asmWideRead addr n = (List.range n).map fun k => HostOp.dataRead (addr + k)) ∧
  (∀ (s t : State) (x : Nat) (v : Byte),
    hostOp (.dataRead x) s = .next t ∨ hostOp (.dataWrite x v) s = .next t →
      t.status = s.status ∧ t.latch = s.latch ∧ SameRegisters s t) ∧
  (∀ (s : State) (x : Nat) (v : Byte), s.cfg.memSize ≤ x →
    hostOp (.dataRead x) s = .refused (.dataAddress x) ∧ hostOp (.dataWrite x v) s = .refused (.dataAddress x))

/-- 20_memory.md R44: a DATA read changes nothing but what the host has read; reading a written byte gives the byte; and
in one run, however many steps later, reading a byte that no write has changed gives the value read before, UNWRITTEN or
not. A register read has no side effects; a register write other than to CMD changes at most the operand registers. -/
def Obligations.ReadsHaveNoSideEffects : Prop :=
  (∀ (s t : State) (x : Nat), hostOp (.dataRead x) s = .next t →
    ∃ v, t = { s with reads := .data x v :: s.reads } ∧
      (∀ b, s.data.byteAt x = some b → v = b) ∧
      ∀ (k : Nat) (s' t' : State), runSteps k t = .next s' →
        (∀ (j : Nat) (u : State), j ≤ k → runSteps j t = .next u → u.data.byteAt x = s.data.byteAt x) →
        hostOp (.dataRead x) s' = .next t' → t' = { s' with reads := .data x v :: s'.reads }) ∧
  (∀ (s t : State) (off width : Nat), hostOp (.regRead off width) s = .next t →
    ∃ e, t = { s with reads := e :: s.reads }) ∧
  (∀ (s t : State) (off width : Nat) (v : Word), off ≠ 0x00 → hostOp (.regWrite off width v) s = .next t →
    t = { s with len := t.len, addrA := t.addrA, addrB := t.addrB, nframes := t.nframes })

/-- 10_state.md section 4: a perform reads only `L`, never the live registers: writes to LEN, ADDR_A, ADDR_B and NFRAMES
after the CMD write change neither its outcome nor anything but themselves in the next state. -/
def Obligations.PerformReadsOnlyTheLatchedOperands : Prop :=
  ∀ (s : State) (n a b f : Word),
    perform { s with len := n, addrA := a, addrB := b, nframes := f } =
      match perform s with
      | .next t => .next { t with len := n, addrA := a, addrB := b, nframes := f }
      | .fault r => .fault r
      | .refused r => .refused r

/-- 20_memory.md section 4: a perform depends on no DATA byte outside its footprint and writes none: two states that
agree on the footprint (and on everything but DATA) answer next states with the same STATUS, in which every byte either
has the same value in both or is unchanged in each, and a byte outside the footprint is unchanged; where it raises, DATA
is unchanged. -/
def Obligations.PerformTouchesOnlyItsFootprint : Prop :=
  ∀ (s t : State) (l : Latched) (m : Memory), s.latch = some l → perform s = .next t →
    (∀ x, inFootprint l x = true → m.byteAt x = s.data.byteAt x) →
    (∀ x, inFootprint l x = false → t.data.byteAt x = s.data.byteAt x) ∧
    (s.halt = false → t.halt = true → t.data = s.data) ∧
    ∃ t', perform { s with data := m } = .next t' ∧ t' = { t with data := t'.data } ∧
      ∀ x, t'.data.byteAt x = if inFootprint l x = true then t.data.byteAt x else m.byteAt x

/-- 30_encoding.md section 5: each pseudo-instruction, run on an idle unit, leaves its operands in the registers it
names and its command word latched with them; ROTL1 leaves ADDR_B and NFRAMES as they were. -/
def Obligations.PseudoInstructionsLatchTheirCommand : Prop :=
  ∀ (s : State) (x y n : Word), s.halt = false → s.busy = false →
    runHostOps (asmPack x y n) s = .next
      { s with
        len := n, addrA := x, addrB := y, status := s.status ||| 0x00000001#32
        latch := some { cmd := 0x00000001, len := n, a := x, b := y, nframes := s.nframes } } ∧
    runHostOps (asmUnpack x y n) s = .next
      { s with
        len := n, addrA := x, addrB := y, status := s.status ||| 0x00000001#32
        latch := some { cmd := 0x00000002, len := n, a := x, b := y, nframes := s.nframes } } ∧
    runHostOps (asmRotl1S x n) s = .next
      { s with
        len := n, addrA := x, status := s.status ||| 0x00000001#32
        latch := some { cmd := 0x00000003, len := n, a := x, b := s.addrB, nframes := s.nframes } } ∧
    runHostOps (asmRotl1V128 x n) s = .next
      { s with
        len := n, addrA := x, status := s.status ||| 0x00000001#32
        latch := some { cmd := 0x00000013, len := n, a := x, b := s.addrB, nframes := s.nframes } } ∧
    runHostOps (asmRotl1V256 x n) s = .next
      { s with
        len := n, addrA := x, status := s.status ||| 0x00000001#32
        latch := some { cmd := 0x00000023, len := n, a := x, b := s.addrB, nframes := s.nframes } } ∧
    runHostOps (asmEqual x y n) s = .next
      { s with
        len := n, addrA := x, addrB := y, status := s.status ||| 0x00000001#32
        latch := some { cmd := 0x00000004, len := n, a := x, b := y, nframes := s.nframes } }

/-- 30_encoding.md section 5: a host turn at POLL is one read of STATUS (bits 7:0 as they are, bits 31:8 zero); POLL is
over when bit 0 of the value read is 0, and otherwise is the host's next operation again; nothing else changes. That the loop's head stays in the program is the
model's choice, log 10. -/
def Obligations.PollReadsStatusUntilIdle : Prop :=
  ∀ (s : State) (turns : List Turn) (rest : List HostOp), s.err.toNat ≤ 6 →
    s.schedule = .host :: turns → s.program = .poll :: rest →
    ∃ v : Word, (∀ j < 8, v.getLsbD j = s.status.getLsbD j) ∧ (∀ j, 8 ≤ j → v.getLsbD j = false) ∧
      step s = .next
        { s with
          schedule := turns, reads := .reg .status v :: s.reads
          program := if v.getLsbD 0 = true then .poll :: rest else rest }

/-! Reset, steps and the invariant. -/

/-- 70_reset_and_hazards.md section 1: reset is one atomic step; the registers and STATUS take their values, a latched
command is discarded, DATA stays; afterwards the unit is idle and accepts a CMD write. That reset is a turn of the
schedule, and that it leaves the arguments, the host's program, its reads and the later turns as they are, is the
model's choice, log 11. (The premise leaves out the ill-formed states of 93_implementation_defined.md, which the
invariant rules out.) -/
def Obligations.ResetSetsTheRegistersAndKeepsData : Prop :=
  ∀ (s : State) (rest : List Turn), s.err.toNat ≤ 6 → s.schedule = .reset :: rest →
    ∃ t, step s = .next t ∧
      t = { s with
            len := 0x00000000, addrA := 0x00000000, addrB := 0x00000000, nframes := 0x00000001
            status := 0x00000000, latch := none, schedule := rest } ∧
      t.busy = false ∧
      ∀ w, hostOp (.regWrite 0x00 32 w) t = .next
        { t with
          status := 0x00000001
          latch := some { cmd := w, len := 0x00000000, a := 0x00000000, b := 0x00000000, nframes := 0x00000001 } }

/-- 10_state.md R37: the state after reset: the register values, CMD's read value, `L` invalid, DATA unchanged by reset
and UNWRITTEN at power-on. -/
def Obligations.ResetValuesAreTheTables : Prop :=
  (∀ c : Config, ∀ s ∈ [State.resetWith c, State.reset],
    s.len = 0x00000000 ∧ s.addrA = 0x00000000 ∧ s.addrB = 0x00000000 ∧ s.nframes = 0x00000001 ∧
    s.status = 0x00000000 ∧ s.busy = false ∧ s.eqFlag = false ∧ s.halt = false ∧ s.ovr = false ∧ s.err = 0 ∧
    readReg s .cmd = 0x00000000 ∧ s.latch = none ∧ ∀ x, s.data.byteAt x = none) ∧
  (∀ s : State, s.platformReset.len = 0x00000000 ∧ s.platformReset.addrA = 0x00000000 ∧
    s.platformReset.addrB = 0x00000000 ∧ s.platformReset.nframes = 0x00000001 ∧
    s.platformReset.status = 0x00000000 ∧ readReg s.platformReset .cmd = 0x00000000 ∧
    s.platformReset.latch = none ∧ s.platformReset.data = s.data)

/-- 60_exceptions.md section 2: when the latched word decodes to a command, BUSY = 1 and HALT = 0, a step that is the
unit's turn is that command's meaning, with the turn taken off the schedule; a word that decodes to none raises
IllegalCommand there. That the unit comes first where the schedule is empty is the model's choice, log 1. -/
def Obligations.AStepRunsTheLatchedCommand : Prop :=
  ∀ (s : State) (l : Latched), s.latch = some l → s.busy = true → s.halt = false → s.err = 0 →
    (∀ i, decode l.cmd = .ok i →
      (∀ rest, s.schedule = .unit :: rest → step s = exec i { s with schedule := rest }) ∧
      (s.schedule = [] → step s = exec i s)) ∧
    (∀ d, decode l.cmd = .error d →
      (∀ rest, s.schedule = .unit :: rest → step s = .next (afterError { s with schedule := rest } 3)) ∧
      (s.schedule = [] → step s = .next (afterError s 3)))

/-- The invariant `Inv` (Safety.lean) is kept by every step from every state that meets it: DATA stays canonical and
inside MEM_SIZE, `L` is valid exactly while BUSY = 1, ERR = 0 exactly when HALT = 0, no reserved code, no reserved bit. -/
def Obligations.EveryStepKeepsTheInvariant : Prop :=
  ∀ s t : State, Inv s → step s = .next t → Inv t

/-- The invariant holds after reset, for all arguments within the bound of 00_scope.md R7. That State.reset uses
MEM_SIZE = 4096 is the model's choice, log 3. -/
def Obligations.InvariantHoldsAtReset : Prop :=
  (∀ c : Config, c.wf → Inv (State.resetWith c)) ∧ Inv State.reset

/-- 60_exceptions.md section 2, weak fairness: a pending command of a unit that is not halted is performed, or discarded
by a reset of the schedule (70_reset_and_hazards.md section 1), or the run stops. Within the schedule's length of steps
the run comes to a state in which the same command is still pending, and whose step is its perform (after which BUSY
is 0) or, where the schedule holds a reset, that reset; or, within one step more, it stops with a model fault or a
refusal. That the schedule is a finite list after which the unit comes first is the model's choice, log 1 and log 17. -/
def Obligations.APendingCommandIsPerformedUnlessReset : Prop :=
  ∀ s : State, s.busy = true → s.halt = false →
    (∃ k ≤ s.schedule.length, ∃ u, runSteps k s = .next u ∧ u.busy = true ∧ u.halt = false ∧ u.latch = s.latch ∧
      (((nextTurn u).1 = .unit ∧ step u = perform { u with schedule := (nextTurn u).2 } ∧
          ∀ t, step u = .next t → t.busy = false) ∨
        ((nextTurn u).1 = .reset ∧ Turn.reset ∈ s.schedule))) ∨
    ∃ k ≤ s.schedule.length + 1, (∃ f, runSteps k s = .fault f) ∨ ∃ r, runSteps k s = .refused r
end

