-- ==== Sys2Proof/Laws/Checks.lean ====
section
/-! SUPPORT. The numbered checks of 60_exceptions.md R96, one by one, for a word that decodes to a command. -/

namespace Sys2Proof.Machine

variable {s : State} {l : Latched} {i : Instr}

theorem checkFails_one (h : decode l.cmd = .ok i) : ¬ checkFails s l 1 := by simp [checkFails, h]

theorem checkFails_two (h : decode l.cmd = .ok i) :
    checkFails s l 2 ↔ i ∈ rotations ∧ l.nframes.toNat ≠ 1 := by simp only [checkFails, h]

theorem checkFails_three (h : decode l.cmd = .ok i) :
    checkFails s l 3 ↔ if i ∈ rotations then l.len.toNat ∉ [32, 64, 128, 256, 512, 1024, 2048]
      else l.len.toNat = 0 ∨ l.len.toNat % 8 ≠ 0 := by simp only [checkFails, h]

theorem checkFails_four (h : decode l.cmd = .ok i) :
    checkFails s l 4 ↔ ∃ r ∈ readSpans i l ++ writeSpans i l, s.cfg.memSize < r.start + r.len := by
  simp only [checkFails, h]

theorem checkFails_five (h : decode l.cmd = .ok i) :
    checkFails s l 5 ↔ i ∈ [Instr.pack, Instr.unpack] ∧
      ∃ x, ∃ r ∈ readSpans i l, ∃ w ∈ writeSpans i l, r.has x = true ∧ w.has x = true := by
  simp only [checkFails, h]

theorem checkFails_six (h : decode l.cmd = .ok i) :
    checkFails s l 6 ↔ ∃ x, (∃ r ∈ readSpans i l, r.has x = true) ∧ s.data.byteAt x = none := by
  simp only [checkFails, h]

theorem checkFails_seven (h : decode l.cmd = .ok i) :
    checkFails s l 7 ↔ i = .pack ∧
      ∃ j < l.len.toNat, ∃ v, s.data.byteAt (l.b.toNat + j) = some v ∧ v ≠ 0x00#8 ∧ v ≠ 0x01#8 := by
  simp only [checkFails, h]

/-- An Illegal word fails check 1. -/
theorem checkFails_one_of_error {d : DecodeError} (h : decode l.cmd = .error d) : checkFails s l 1 := by
  simp [checkFails, h]

@[simp] theorem Span.has_iff (r : Span) (x : Nat) : r.has x = true ↔ r.start ≤ x ∧ x < r.start + r.len := by
  simp [Span.has]

end Sys2Proof.Machine
end

