-- ==== Sys2Proof/Laws/State.lean ====
section
/-! SUPPORT. One lemma per field per update of the state, each true by unfolding the update once. -/

namespace Sys2Proof.Machine

/-! `State.setBusy`. -/

@[simp] theorem State.setBusy_cfg (s : State) (b : Bool) :
    (s.setBusy b).cfg = s.cfg := rfl
@[simp] theorem State.setBusy_len (s : State) (b : Bool) :
    (s.setBusy b).len = s.len := rfl
@[simp] theorem State.setBusy_addrA (s : State) (b : Bool) :
    (s.setBusy b).addrA = s.addrA := rfl
@[simp] theorem State.setBusy_addrB (s : State) (b : Bool) :
    (s.setBusy b).addrB = s.addrB := rfl
@[simp] theorem State.setBusy_nframes (s : State) (b : Bool) :
    (s.setBusy b).nframes = s.nframes := rfl
@[simp] theorem State.setBusy_status (s : State) (b : Bool) :
    (s.setBusy b).status = setStatusBit s.status 0 b := rfl
@[simp] theorem State.setBusy_latch (s : State) (b : Bool) :
    (s.setBusy b).latch = s.latch := rfl
@[simp] theorem State.setBusy_data (s : State) (b : Bool) :
    (s.setBusy b).data = s.data := rfl
@[simp] theorem State.setBusy_program (s : State) (b : Bool) :
    (s.setBusy b).program = s.program := rfl
@[simp] theorem State.setBusy_schedule (s : State) (b : Bool) :
    (s.setBusy b).schedule = s.schedule := rfl
@[simp] theorem State.setBusy_reads (s : State) (b : Bool) :
    (s.setBusy b).reads = s.reads := rfl

/-! `State.setEq`. -/

@[simp] theorem State.setEq_cfg (s : State) (b : Bool) :
    (s.setEq b).cfg = s.cfg := rfl
@[simp] theorem State.setEq_len (s : State) (b : Bool) :
    (s.setEq b).len = s.len := rfl
@[simp] theorem State.setEq_addrA (s : State) (b : Bool) :
    (s.setEq b).addrA = s.addrA := rfl
@[simp] theorem State.setEq_addrB (s : State) (b : Bool) :
    (s.setEq b).addrB = s.addrB := rfl
@[simp] theorem State.setEq_nframes (s : State) (b : Bool) :
    (s.setEq b).nframes = s.nframes := rfl
@[simp] theorem State.setEq_status (s : State) (b : Bool) :
    (s.setEq b).status = setStatusBit s.status 1 b := rfl
@[simp] theorem State.setEq_latch (s : State) (b : Bool) :
    (s.setEq b).latch = s.latch := rfl
@[simp] theorem State.setEq_data (s : State) (b : Bool) :
    (s.setEq b).data = s.data := rfl
@[simp] theorem State.setEq_program (s : State) (b : Bool) :
    (s.setEq b).program = s.program := rfl
@[simp] theorem State.setEq_schedule (s : State) (b : Bool) :
    (s.setEq b).schedule = s.schedule := rfl
@[simp] theorem State.setEq_reads (s : State) (b : Bool) :
    (s.setEq b).reads = s.reads := rfl

/-! `State.setHalt`. -/

@[simp] theorem State.setHalt_cfg (s : State) (b : Bool) :
    (s.setHalt b).cfg = s.cfg := rfl
@[simp] theorem State.setHalt_len (s : State) (b : Bool) :
    (s.setHalt b).len = s.len := rfl
@[simp] theorem State.setHalt_addrA (s : State) (b : Bool) :
    (s.setHalt b).addrA = s.addrA := rfl
@[simp] theorem State.setHalt_addrB (s : State) (b : Bool) :
    (s.setHalt b).addrB = s.addrB := rfl
@[simp] theorem State.setHalt_nframes (s : State) (b : Bool) :
    (s.setHalt b).nframes = s.nframes := rfl
@[simp] theorem State.setHalt_status (s : State) (b : Bool) :
    (s.setHalt b).status = setStatusBit s.status 2 b := rfl
@[simp] theorem State.setHalt_latch (s : State) (b : Bool) :
    (s.setHalt b).latch = s.latch := rfl
@[simp] theorem State.setHalt_data (s : State) (b : Bool) :
    (s.setHalt b).data = s.data := rfl
@[simp] theorem State.setHalt_program (s : State) (b : Bool) :
    (s.setHalt b).program = s.program := rfl
@[simp] theorem State.setHalt_schedule (s : State) (b : Bool) :
    (s.setHalt b).schedule = s.schedule := rfl
@[simp] theorem State.setHalt_reads (s : State) (b : Bool) :
    (s.setHalt b).reads = s.reads := rfl

/-! `State.setOvr`. -/

@[simp] theorem State.setOvr_cfg (s : State) (b : Bool) :
    (s.setOvr b).cfg = s.cfg := rfl
@[simp] theorem State.setOvr_len (s : State) (b : Bool) :
    (s.setOvr b).len = s.len := rfl
@[simp] theorem State.setOvr_addrA (s : State) (b : Bool) :
    (s.setOvr b).addrA = s.addrA := rfl
@[simp] theorem State.setOvr_addrB (s : State) (b : Bool) :
    (s.setOvr b).addrB = s.addrB := rfl
@[simp] theorem State.setOvr_nframes (s : State) (b : Bool) :
    (s.setOvr b).nframes = s.nframes := rfl
@[simp] theorem State.setOvr_status (s : State) (b : Bool) :
    (s.setOvr b).status = setStatusBit s.status 3 b := rfl
@[simp] theorem State.setOvr_latch (s : State) (b : Bool) :
    (s.setOvr b).latch = s.latch := rfl
@[simp] theorem State.setOvr_data (s : State) (b : Bool) :
    (s.setOvr b).data = s.data := rfl
@[simp] theorem State.setOvr_program (s : State) (b : Bool) :
    (s.setOvr b).program = s.program := rfl
@[simp] theorem State.setOvr_schedule (s : State) (b : Bool) :
    (s.setOvr b).schedule = s.schedule := rfl
@[simp] theorem State.setOvr_reads (s : State) (b : Bool) :
    (s.setOvr b).reads = s.reads := rfl

/-! `State.setErr`. -/

@[simp] theorem State.setErr_cfg (s : State) (c : BitVec 4) :
    (s.setErr c).cfg = s.cfg := rfl
@[simp] theorem State.setErr_len (s : State) (c : BitVec 4) :
    (s.setErr c).len = s.len := rfl
@[simp] theorem State.setErr_addrA (s : State) (c : BitVec 4) :
    (s.setErr c).addrA = s.addrA := rfl
@[simp] theorem State.setErr_addrB (s : State) (c : BitVec 4) :
    (s.setErr c).addrB = s.addrB := rfl
@[simp] theorem State.setErr_nframes (s : State) (c : BitVec 4) :
    (s.setErr c).nframes = s.nframes := rfl
@[simp] theorem State.setErr_status (s : State) (c : BitVec 4) :
    (s.setErr c).status = setErrField s.status c := rfl
@[simp] theorem State.setErr_latch (s : State) (c : BitVec 4) :
    (s.setErr c).latch = s.latch := rfl
@[simp] theorem State.setErr_data (s : State) (c : BitVec 4) :
    (s.setErr c).data = s.data := rfl
@[simp] theorem State.setErr_program (s : State) (c : BitVec 4) :
    (s.setErr c).program = s.program := rfl
@[simp] theorem State.setErr_schedule (s : State) (c : BitVec 4) :
    (s.setErr c).schedule = s.schedule := rfl
@[simp] theorem State.setErr_reads (s : State) (c : BitVec 4) :
    (s.setErr c).reads = s.reads := rfl

/-! `State.unlatch`. -/

@[simp] theorem State.unlatch_cfg (s : State) :
    (s.unlatch).cfg = s.cfg := rfl
@[simp] theorem State.unlatch_len (s : State) :
    (s.unlatch).len = s.len := rfl
@[simp] theorem State.unlatch_addrA (s : State) :
    (s.unlatch).addrA = s.addrA := rfl
@[simp] theorem State.unlatch_addrB (s : State) :
    (s.unlatch).addrB = s.addrB := rfl
@[simp] theorem State.unlatch_nframes (s : State) :
    (s.unlatch).nframes = s.nframes := rfl
@[simp] theorem State.unlatch_status (s : State) :
    (s.unlatch).status = s.status := rfl
@[simp] theorem State.unlatch_latch (s : State) :
    (s.unlatch).latch = none := rfl
@[simp] theorem State.unlatch_data (s : State) :
    (s.unlatch).data = s.data := rfl
@[simp] theorem State.unlatch_program (s : State) :
    (s.unlatch).program = s.program := rfl
@[simp] theorem State.unlatch_schedule (s : State) :
    (s.unlatch).schedule = s.schedule := rfl
@[simp] theorem State.unlatch_reads (s : State) :
    (s.unlatch).reads = s.reads := rfl

/-! `State.complete`. -/

@[simp] theorem State.complete_cfg (s : State) :
    (s.complete).cfg = s.cfg := rfl
@[simp] theorem State.complete_len (s : State) :
    (s.complete).len = s.len := rfl
@[simp] theorem State.complete_addrA (s : State) :
    (s.complete).addrA = s.addrA := rfl
@[simp] theorem State.complete_addrB (s : State) :
    (s.complete).addrB = s.addrB := rfl
@[simp] theorem State.complete_nframes (s : State) :
    (s.complete).nframes = s.nframes := rfl
@[simp] theorem State.complete_status (s : State) :
    (s.complete).status = setStatusBit s.status 0 false := rfl
@[simp] theorem State.complete_latch (s : State) :
    (s.complete).latch = none := rfl
@[simp] theorem State.complete_data (s : State) :
    (s.complete).data = s.data := rfl
@[simp] theorem State.complete_program (s : State) :
    (s.complete).program = s.program := rfl
@[simp] theorem State.complete_schedule (s : State) :
    (s.complete).schedule = s.schedule := rfl
@[simp] theorem State.complete_reads (s : State) :
    (s.complete).reads = s.reads := rfl

/-! `State.raise`. -/

@[simp] theorem State.raise_cfg (s : State) (e : ErrorKind) :
    (s.raise e).cfg = s.cfg := rfl
@[simp] theorem State.raise_len (s : State) (e : ErrorKind) :
    (s.raise e).len = s.len := rfl
@[simp] theorem State.raise_addrA (s : State) (e : ErrorKind) :
    (s.raise e).addrA = s.addrA := rfl
@[simp] theorem State.raise_addrB (s : State) (e : ErrorKind) :
    (s.raise e).addrB = s.addrB := rfl
@[simp] theorem State.raise_nframes (s : State) (e : ErrorKind) :
    (s.raise e).nframes = s.nframes := rfl
@[simp] theorem State.raise_status (s : State) (e : ErrorKind) :
    (s.raise e).status = setStatusBit (setStatusBit (setErrField s.status (errorCode e)) 2 true) 0 false := rfl
@[simp] theorem State.raise_latch (s : State) (e : ErrorKind) :
    (s.raise e).latch = none := rfl
@[simp] theorem State.raise_data (s : State) (e : ErrorKind) :
    (s.raise e).data = s.data := rfl
@[simp] theorem State.raise_program (s : State) (e : ErrorKind) :
    (s.raise e).program = s.program := rfl
@[simp] theorem State.raise_schedule (s : State) (e : ErrorKind) :
    (s.raise e).schedule = s.schedule := rfl
@[simp] theorem State.raise_reads (s : State) (e : ErrorKind) :
    (s.raise e).reads = s.reads := rfl

/-! `State.store`. -/

@[simp] theorem State.store_cfg (s : State) (a : Nat) (vs : List Byte) :
    (s.store a vs).cfg = s.cfg := rfl
@[simp] theorem State.store_len (s : State) (a : Nat) (vs : List Byte) :
    (s.store a vs).len = s.len := rfl
@[simp] theorem State.store_addrA (s : State) (a : Nat) (vs : List Byte) :
    (s.store a vs).addrA = s.addrA := rfl
@[simp] theorem State.store_addrB (s : State) (a : Nat) (vs : List Byte) :
    (s.store a vs).addrB = s.addrB := rfl
@[simp] theorem State.store_nframes (s : State) (a : Nat) (vs : List Byte) :
    (s.store a vs).nframes = s.nframes := rfl
@[simp] theorem State.store_status (s : State) (a : Nat) (vs : List Byte) :
    (s.store a vs).status = s.status := rfl
@[simp] theorem State.store_latch (s : State) (a : Nat) (vs : List Byte) :
    (s.store a vs).latch = s.latch := rfl
@[simp] theorem State.store_data (s : State) (a : Nat) (vs : List Byte) :
    (s.store a vs).data = s.data.writeBytes a vs := rfl
@[simp] theorem State.store_program (s : State) (a : Nat) (vs : List Byte) :
    (s.store a vs).program = s.program := rfl
@[simp] theorem State.store_schedule (s : State) (a : Nat) (vs : List Byte) :
    (s.store a vs).schedule = s.schedule := rfl
@[simp] theorem State.store_reads (s : State) (a : Nat) (vs : List Byte) :
    (s.store a vs).reads = s.reads := rfl

/-! `State.noteRead`. -/

@[simp] theorem State.noteRead_cfg (s : State) (r : HostRead) :
    (s.noteRead r).cfg = s.cfg := rfl
@[simp] theorem State.noteRead_len (s : State) (r : HostRead) :
    (s.noteRead r).len = s.len := rfl
@[simp] theorem State.noteRead_addrA (s : State) (r : HostRead) :
    (s.noteRead r).addrA = s.addrA := rfl
@[simp] theorem State.noteRead_addrB (s : State) (r : HostRead) :
    (s.noteRead r).addrB = s.addrB := rfl
@[simp] theorem State.noteRead_nframes (s : State) (r : HostRead) :
    (s.noteRead r).nframes = s.nframes := rfl
@[simp] theorem State.noteRead_status (s : State) (r : HostRead) :
    (s.noteRead r).status = s.status := rfl
@[simp] theorem State.noteRead_latch (s : State) (r : HostRead) :
    (s.noteRead r).latch = s.latch := rfl
@[simp] theorem State.noteRead_data (s : State) (r : HostRead) :
    (s.noteRead r).data = s.data := rfl
@[simp] theorem State.noteRead_program (s : State) (r : HostRead) :
    (s.noteRead r).program = s.program := rfl
@[simp] theorem State.noteRead_schedule (s : State) (r : HostRead) :
    (s.noteRead r).schedule = s.schedule := rfl
@[simp] theorem State.noteRead_reads (s : State) (r : HostRead) :
    (s.noteRead r).reads = r :: s.reads := rfl

/-! `State.platformReset`. -/

@[simp] theorem State.platformReset_cfg (s : State) :
    (s.platformReset).cfg = s.cfg := rfl
@[simp] theorem State.platformReset_len (s : State) :
    (s.platformReset).len = 0x00000000 := rfl
@[simp] theorem State.platformReset_addrA (s : State) :
    (s.platformReset).addrA = 0x00000000 := rfl
@[simp] theorem State.platformReset_addrB (s : State) :
    (s.platformReset).addrB = 0x00000000 := rfl
@[simp] theorem State.platformReset_nframes (s : State) :
    (s.platformReset).nframes = 0x00000001 := rfl
@[simp] theorem State.platformReset_status (s : State) :
    (s.platformReset).status = 0x00000000 := rfl
@[simp] theorem State.platformReset_latch (s : State) :
    (s.platformReset).latch = none := rfl
@[simp] theorem State.platformReset_data (s : State) :
    (s.platformReset).data = s.data := rfl
@[simp] theorem State.platformReset_program (s : State) :
    (s.platformReset).program = s.program := rfl
@[simp] theorem State.platformReset_schedule (s : State) :
    (s.platformReset).schedule = s.schedule := rfl
@[simp] theorem State.platformReset_reads (s : State) :
    (s.platformReset).reads = s.reads := rfl

/-! `State.resetWith`. -/

@[simp] theorem State.resetWith_cfg (c : Config) : (State.resetWith c).cfg = c := rfl
@[simp] theorem State.resetWith_len (c : Config) : (State.resetWith c).len = 0x00000000 := rfl
@[simp] theorem State.resetWith_addrA (c : Config) : (State.resetWith c).addrA = 0x00000000 := rfl
@[simp] theorem State.resetWith_addrB (c : Config) : (State.resetWith c).addrB = 0x00000000 := rfl
@[simp] theorem State.resetWith_nframes (c : Config) : (State.resetWith c).nframes = 0x00000001 := rfl
@[simp] theorem State.resetWith_status (c : Config) : (State.resetWith c).status = 0x00000000 := rfl
@[simp] theorem State.resetWith_latch (c : Config) : (State.resetWith c).latch = none := rfl
@[simp] theorem State.resetWith_data (c : Config) : (State.resetWith c).data = [] := rfl
@[simp] theorem State.resetWith_program (c : Config) : (State.resetWith c).program = [] := rfl
@[simp] theorem State.resetWith_schedule (c : Config) : (State.resetWith c).schedule = [] := rfl
@[simp] theorem State.resetWith_reads (c : Config) : (State.resetWith c).reads = [] := rfl

end Sys2Proof.Machine
end

