-- ==== Sys2Proof/Laws/Memory.lean ====
section
/-! SUPPORT. What the operations on DATA do to one byte, and that each keeps the canonical form. -/

namespace Sys2Proof.Machine

namespace Memory

@[simp] theorem byteAt_nil (x : Nat) : byteAt [] x = none := rfl

theorem byteAt_cons (a : Nat) (v : Byte) (m : Memory) (x : Nat) :
    byteAt ((a, v) :: m) x = if a = x then some v else byteAt m x := rfl

/-- A write sets its own byte and no other (20_memory.md R50: a read returns the latest write). -/
theorem byteAt_setByte (m : Memory) (x : Nat) (v : Byte) (y : Nat) :
    (m.setByte x v).byteAt y = if y = x then some v else m.byteAt y := by
  induction m with
  | nil => simp [setByte, byteAt_cons, eq_comm]
  | cons c m ih =>
    obtain ⟨a, b⟩ := c
    by_cases h1 : x < a
    · simp [setByte, h1, byteAt_cons, eq_comm]
    · by_cases h2 : x = a
      · subst h2
        by_cases h3 : x = y <;> simp [setByte, byteAt_cons, h3, eq_comm]
      · simp only [setByte, h1, h2, if_false, byteAt_cons, ih]
        by_cases h3 : a = y
        · subst h3
          simp [Ne.symm h2]
        · simp [h3]

theorem mem_setByte {m : Memory} {x : Nat} {v : Byte} {c : Host.Cell} (h : c ∈ m.setByte x v) :
    c = (x, v) ∨ c ∈ m := by
  induction m with
  | nil => simpa [setByte] using h
  | cons d m ih =>
    obtain ⟨a, b⟩ := d
    simp only [setByte] at h
    split at h
    · simpa using h
    · split at h
      · simp only [List.mem_cons] at h ⊢
        tauto
      · simp only [List.mem_cons] at h ⊢
        rcases h with h | h
        · exact .inr (.inl h)
        · rcases ih h with h | h
          · exact .inl h
          · exact .inr (.inr h)

/-- A write keeps the addresses strictly rising. -/
theorem wf_setByte {m : Memory} (h : m.wf) (x : Nat) (v : Byte) : (m.setByte x v).wf := by
  induction m with
  | nil => simp [setByte, wf]
  | cons d m ih =>
    obtain ⟨a, b⟩ := d
    obtain ⟨ha, hm⟩ := List.pairwise_cons.1 h
    simp only [setByte]
    split
    · rename_i hx
      refine List.pairwise_cons.2 ⟨?_, h⟩
      intro c hc
      rcases List.mem_cons.1 hc with rfl | hc
      · exact hx
      · exact Nat.lt_trans hx (ha c hc)
    · split
      · rename_i hx
        subst hx
        exact List.pairwise_cons.2 ⟨ha, hm⟩
      · refine List.pairwise_cons.2 ⟨?_, ih hm⟩
        intro c hc
        rcases mem_setByte hc with rfl | hc
        · simp only
          omega
        · exact ha c hc

theorem within_setByte {m : Memory} {size x : Nat} (h : m.within size) (hx : x < size) (v : Byte) :
    (m.setByte x v).within size := by
  intro c hc
  rcases mem_setByte hc with rfl | hc
  · exact hx
  · exact h c hc

/-- The whole effect of writing an array: its own bytes, and no other. -/
theorem byteAt_writeBytes (m : Memory) (a : Nat) (vs : List Byte) (y : Nat) :
    (m.writeBytes a vs).byteAt y = if a ≤ y ∧ y < a + vs.length then vs[y - a]? else m.byteAt y := by
  induction vs generalizing m a with
  | nil =>
    simp [writeBytes]
  | cons v vs ih =>
    simp only [writeBytes, ih, byteAt_setByte, List.length_cons]
    by_cases h1 : y = a
    · subst h1
      simp
    · by_cases h2 : a + 1 ≤ y ∧ y < a + 1 + vs.length
      · have h3 : a ≤ y ∧ y < a + (vs.length + 1) := by omega
        have h4 : y - a = (y - (a + 1)) + 1 := by omega
        rw [if_pos h2, if_pos h3, h4, List.getElem?_cons_succ]
      · have h3 : ¬ (a ≤ y ∧ y < a + (vs.length + 1)) := by omega
        rw [if_neg h2, if_neg h3, if_neg h1]

theorem byteAt_writeBytes_outside {m : Memory} {a : Nat} {vs : List Byte} {y : Nat}
    (h : y < a ∨ a + vs.length ≤ y) : (m.writeBytes a vs).byteAt y = m.byteAt y := by
  rw [byteAt_writeBytes, if_neg (by omega)]

theorem byteAt_writeBytes_inside {m : Memory} {a k : Nat} {vs : List Byte} (h : k < vs.length) :
    (m.writeBytes a vs).byteAt (a + k) = vs[k]? := by
  rw [byteAt_writeBytes, if_pos (by omega), Nat.add_sub_cancel_left]

theorem wf_writeBytes {m : Memory} (h : m.wf) (a : Nat) (vs : List Byte) : (m.writeBytes a vs).wf := by
  induction vs generalizing m a with
  | nil => exact h
  | cons v vs ih => exact ih (wf_setByte h a v) (a + 1)

theorem within_writeBytes {m : Memory} {size a : Nat} {vs : List Byte} (h : m.within size)
    (hx : a + vs.length ≤ size) : (m.writeBytes a vs).within size := by
  induction vs generalizing m a with
  | nil => exact h
  | cons v vs ih =>
    simp only [List.length_cons] at hx
    exact ih (within_setByte h (by omega) v) (by omega)

/-- A read of a range answers its bytes exactly when every one of them is written (20_memory.md R46). -/
theorem readBytes_eq_ok {m : Memory} {a n : Nat} {vs : List Byte} :
    m.readBytes a n = .ok vs ↔ vs.length = n ∧ ∀ k < n, m.byteAt (a + k) = vs[k]? := by
  induction n generalizing a vs with
  | zero =>
    simp only [readBytes, Except.ok.injEq]
    constructor
    · rintro rfl
      simp
    · rintro ⟨h, -⟩
      exact (List.length_eq_zero_iff.1 h).symm
  | succ n ih =>
    simp only [readBytes]
    cases hb : m.byteAt a with
    | none =>
      simp only [reduceCtorEq, false_iff, not_and]
      intro hl h
      have := h 0 (by omega)
      rw [Nat.add_zero, hb, List.getElem?_eq_getElem (by omega)] at this
      cases this
    | some v =>
      cases hr : m.readBytes (a + 1) n with
      | error x =>
        simp only [reduceCtorEq, false_iff, not_and]
        intro hl h
        cases vs with
        | nil => simp at hl
        | cons w ws =>
          have : m.readBytes (a + 1) n = .ok ws := by
            refine ih.2 ⟨by simpa using hl, fun k hk => ?_⟩
            have := h (k + 1) (by omega)
            rwa [List.getElem?_cons_succ, ← Nat.add_assoc, Nat.add_right_comm] at this
          rw [hr] at this
          cases this
      | ok ws =>
        obtain ⟨hl, h⟩ := ih.1 hr
        simp only [Except.ok.injEq]
        constructor
        · rintro rfl
          refine ⟨by simp [hl], fun k hk => ?_⟩
          cases k with
          | zero => simp [hb]
          | succ k =>
            rw [List.getElem?_cons_succ, ← h k (by omega)]
            congr 1
            omega
        · rintro ⟨hl', h'⟩
          cases vs with
          | nil => simp at hl'
          | cons w us =>
            have h0 := h' 0 (by omega)
            rw [Nat.add_zero, hb] at h0
            simp only [List.getElem?_cons_zero, Option.some.injEq] at h0
            subst h0
            congr 1
            apply List.ext_getElem?
            intro k
            by_cases hk : k < n
            · rw [← h k hk]
              have := h' (k + 1) (by omega)
              rw [List.getElem?_cons_succ] at this
              rw [← this]
              congr 1
              omega
            · simp only [List.length_cons] at hl'
              rw [List.getElem?_eq_none (by omega), List.getElem?_eq_none (by omega)]

/-- A read of a range stops at the first byte that is not written (20_memory.md R46; log 12). -/
theorem readBytes_eq_error {m : Memory} {a n x : Nat} :
    m.readBytes a n = .error x ↔
      ∃ k < n, x = a + k ∧ m.byteAt x = none ∧ ∀ j < k, (m.byteAt (a + j)).isSome := by
  induction n generalizing a with
  | zero => simp [readBytes]
  | succ n ih =>
    simp only [readBytes]
    cases hb : m.byteAt a with
    | none =>
      simp only [Except.error.injEq]
      constructor
      · rintro rfl
        exact ⟨0, by omega, rfl, hb, by simp⟩
      · rintro ⟨k, hk, rfl, hx, h⟩
        cases k with
        | zero => rfl
        | succ k =>
          have := h 0 (by omega)
          simp [hb] at this
    | some v =>
      have key : m.readBytes (a + 1) n = .error x ↔
          ∃ k < n + 1, x = a + k ∧ m.byteAt x = none ∧ ∀ j < k, (m.byteAt (a + j)).isSome := by
        rw [ih]
        constructor
        · rintro ⟨k, hk, rfl, hx, h⟩
          refine ⟨k + 1, by omega, by omega, hx, fun j hj => ?_⟩
          cases j with
          | zero => simp [hb]
          | succ j =>
            have := h j (by omega)
            rwa [Nat.add_assoc, Nat.add_comm 1 j] at this
        · rintro ⟨k, hk, rfl, hx, h⟩
          cases k with
          | zero => simp [hb] at hx
          | succ k =>
            refine ⟨k, by omega, by omega, hx, fun j hj => ?_⟩
            have := h (j + 1) (by omega)
            rwa [Nat.add_assoc, Nat.add_comm 1 j]
      rw [← key]
      cases m.readBytes (a + 1) n <;> simp

theorem byteAt_eq_none_of_forall {m : Memory} {x : Nat} (h : ∀ c ∈ m, c.1 ≠ x) : m.byteAt x = none := by
  induction m with
  | nil => rfl
  | cons c m ih =>
    obtain ⟨a, v⟩ := c
    rw [byteAt_cons, if_neg (h (a, v) (by simp))]
    exact ih fun c hc => h c (by simp [hc])

/-- Equal memories are equal data: canonical memories that read alike are the same list. -/
theorem eq_of_byteAt {m m' : Memory} (h : m.wf) (h' : m'.wf) (e : ∀ x, m.byteAt x = m'.byteAt x) : m = m' := by
  induction m generalizing m' with
  | nil =>
    cases m' with
    | nil => rfl
    | cons c m' =>
      have := e c.1
      rw [byteAt_cons, if_pos rfl] at this
      cases this
  | cons c m ih =>
    obtain ⟨a, v⟩ := c
    obtain ⟨ha, hm⟩ := List.pairwise_cons.1 h
    cases m' with
    | nil =>
      have := e a
      rw [byteAt_cons, if_pos rfl] at this
      cases this
    | cons c' m' =>
      obtain ⟨a', v'⟩ := c'
      obtain ⟨ha', hm'⟩ := List.pairwise_cons.1 h'
      have hne : ∀ y ≤ a, byteAt m y = none := fun y hy =>
        byteAt_eq_none_of_forall fun c hc => by
          have := ha c hc
          simp only at this
          omega
      have hne' : ∀ y ≤ a', byteAt m' y = none := fun y hy =>
        byteAt_eq_none_of_forall fun c hc => by
          have := ha' c hc
          simp only at this
          omega
      have haa : a = a' := by
        by_contra hc
        rcases Nat.lt_or_gt_of_ne hc with hlt | hlt
        · have := e a
          rw [byteAt_cons, if_pos rfl, byteAt_cons, if_neg (by omega), hne' a (by omega)] at this
          cases this
        · have := e a'
          rw [byteAt_cons, if_neg (by omega), hne a' (by omega), byteAt_cons, if_pos rfl] at this
          cases this
      subst haa
      have hv := e a
      rw [byteAt_cons, if_pos rfl, byteAt_cons, if_pos rfl] at hv
      cases hv
      congr 1
      refine ih hm hm' fun y => ?_
      by_cases hy : a = y
      · subst hy
        rw [hne a (Nat.le_refl a), hne' a (Nat.le_refl a)]
      · have := e y
        rwa [byteAt_cons, if_neg hy, byteAt_cons, if_neg hy] at this

end Memory

end Sys2Proof.Machine
end

