-- ==== Sys2Proof/Laws/Status.lean ====
section
/-! SUPPORT. What each write of a STATUS field does to each field (10_state.md R25 to R31). -/

namespace Sys2Proof.Machine

theorem getLsbD_setStatusBit (w : Word) (i j : Nat) (b : Bool) (hi : i < 32) :
    (setStatusBit w i b).getLsbD j = if j = i then b else w.getLsbD j := by
  by_cases hj : j < 32
  · cases b <;> by_cases h : j = i <;> simp [setStatusBit, h, hj, hi]
    · intro hw
      omega
    · intro h1 h2
      omega
  · have h : j ≠ i := by omega
    simp [h, BitVec.getLsbD_of_ge _ _ (Nat.le_of_not_lt hj)]

theorem getLsbD_setErrField (w : Word) (c : BitVec 4) (j : Nat) :
    (setErrField w c).getLsbD j = if 4 ≤ j ∧ j < 8 then c.getLsbD (j - 4) else w.getLsbD j := by
  by_cases hj : j < 32
  · have hm : ∀ k < 32, (0x000000F0#32).getLsbD k = decide (4 ≤ k ∧ k < 8) := by decide
    simp only [setErrField, BitVec.getLsbD_or, BitVec.getLsbD_and, BitVec.getLsbD_not, hm j hj,
      BitVec.getLsbD_shiftLeft, BitVec.getLsbD_setWidth]
    by_cases h4 : 4 ≤ j
    · by_cases h8 : j < 8
      · have e : ¬ j < 4 := by omega
        have e' : j - 4 < 32 := by omega
        simp [h4, h8, hj, e, e']
      · have e : 4 ≤ j - 4 := by omega
        simp [h4, h8, hj, BitVec.getLsbD_of_ge c _ e]
    · have e : j < 4 := by omega
      simp [h4, hj, e]
  · have h : ¬ (4 ≤ j ∧ j < 8) := by omega
    simp [h, BitVec.getLsbD_of_ge _ _ (Nat.le_of_not_lt hj)]

theorem setStatusBit_err (w : Word) (i : Nat) (b : Bool) (h : i < 4) :
    (setStatusBit w i b).extractLsb' 4 4 = w.extractLsb' 4 4 := by
  apply BitVec.eq_of_getLsbD_eq
  intro j hj
  simp only [BitVec.getLsbD_extractLsb', hj, decide_true, Bool.true_and]
  rw [getLsbD_setStatusBit _ _ _ _ (by omega), if_neg (by omega)]

theorem setErrField_err (w : Word) (c : BitVec 4) : (setErrField w c).extractLsb' 4 4 = c := by
  apply BitVec.eq_of_getLsbD_eq
  intro j hj
  simp only [BitVec.getLsbD_extractLsb', hj, decide_true, Bool.true_and]
  rw [getLsbD_setErrField, if_pos (by omega)]
  congr 1
  omega

/-! BUSY, EQ, HALT, OVR, ERR after each write of a field. -/

@[simp] theorem State.setBusy_busy (s : State) (b : Bool) : (s.setBusy b).busy = b :=
  getLsbD_setStatusBit _ _ _ _ (by decide)
@[simp] theorem State.setBusy_eqFlag (s : State) (b : Bool) : (s.setBusy b).eqFlag = s.eqFlag :=
  getLsbD_setStatusBit _ _ _ _ (by decide)
@[simp] theorem State.setBusy_halt (s : State) (b : Bool) : (s.setBusy b).halt = s.halt :=
  getLsbD_setStatusBit _ _ _ _ (by decide)
@[simp] theorem State.setBusy_ovr (s : State) (b : Bool) : (s.setBusy b).ovr = s.ovr :=
  getLsbD_setStatusBit _ _ _ _ (by decide)
@[simp] theorem State.setBusy_err (s : State) (b : Bool) : (s.setBusy b).err = s.err :=
  setStatusBit_err _ _ _ (by omega)

@[simp] theorem State.setEq_busy (s : State) (b : Bool) : (s.setEq b).busy = s.busy :=
  getLsbD_setStatusBit _ _ _ _ (by decide)
@[simp] theorem State.setEq_eqFlag (s : State) (b : Bool) : (s.setEq b).eqFlag = b :=
  getLsbD_setStatusBit _ _ _ _ (by decide)
@[simp] theorem State.setEq_halt (s : State) (b : Bool) : (s.setEq b).halt = s.halt :=
  getLsbD_setStatusBit _ _ _ _ (by decide)
@[simp] theorem State.setEq_ovr (s : State) (b : Bool) : (s.setEq b).ovr = s.ovr :=
  getLsbD_setStatusBit _ _ _ _ (by decide)
@[simp] theorem State.setEq_err (s : State) (b : Bool) : (s.setEq b).err = s.err :=
  setStatusBit_err _ _ _ (by omega)

@[simp] theorem State.setHalt_busy (s : State) (b : Bool) : (s.setHalt b).busy = s.busy :=
  getLsbD_setStatusBit _ _ _ _ (by decide)
@[simp] theorem State.setHalt_eqFlag (s : State) (b : Bool) : (s.setHalt b).eqFlag = s.eqFlag :=
  getLsbD_setStatusBit _ _ _ _ (by decide)
@[simp] theorem State.setHalt_halt (s : State) (b : Bool) : (s.setHalt b).halt = b :=
  getLsbD_setStatusBit _ _ _ _ (by decide)
@[simp] theorem State.setHalt_ovr (s : State) (b : Bool) : (s.setHalt b).ovr = s.ovr :=
  getLsbD_setStatusBit _ _ _ _ (by decide)
@[simp] theorem State.setHalt_err (s : State) (b : Bool) : (s.setHalt b).err = s.err :=
  setStatusBit_err _ _ _ (by omega)

@[simp] theorem State.setOvr_busy (s : State) (b : Bool) : (s.setOvr b).busy = s.busy :=
  getLsbD_setStatusBit _ _ _ _ (by decide)
@[simp] theorem State.setOvr_eqFlag (s : State) (b : Bool) : (s.setOvr b).eqFlag = s.eqFlag :=
  getLsbD_setStatusBit _ _ _ _ (by decide)
@[simp] theorem State.setOvr_halt (s : State) (b : Bool) : (s.setOvr b).halt = s.halt :=
  getLsbD_setStatusBit _ _ _ _ (by decide)
@[simp] theorem State.setOvr_ovr (s : State) (b : Bool) : (s.setOvr b).ovr = b :=
  getLsbD_setStatusBit _ _ _ _ (by decide)
@[simp] theorem State.setOvr_err (s : State) (b : Bool) : (s.setOvr b).err = s.err :=
  setStatusBit_err _ _ _ (by omega)

@[simp] theorem State.setErr_busy (s : State) (c : BitVec 4) : (s.setErr c).busy = s.busy :=
  getLsbD_setErrField _ _ _
@[simp] theorem State.setErr_eqFlag (s : State) (c : BitVec 4) : (s.setErr c).eqFlag = s.eqFlag :=
  getLsbD_setErrField _ _ _
@[simp] theorem State.setErr_halt (s : State) (c : BitVec 4) : (s.setErr c).halt = s.halt :=
  getLsbD_setErrField _ _ _
@[simp] theorem State.setErr_ovr (s : State) (c : BitVec 4) : (s.setErr c).ovr = s.ovr :=
  getLsbD_setErrField _ _ _
@[simp] theorem State.setErr_err (s : State) (c : BitVec 4) : (s.setErr c).err = c := by
  simp [State.err, setErrField_err]

@[simp] theorem State.unlatch_busy (s : State) : s.unlatch.busy = s.busy := rfl
@[simp] theorem State.unlatch_eqFlag (s : State) : s.unlatch.eqFlag = s.eqFlag := rfl
@[simp] theorem State.unlatch_halt (s : State) : s.unlatch.halt = s.halt := rfl
@[simp] theorem State.unlatch_ovr (s : State) : s.unlatch.ovr = s.ovr := rfl
@[simp] theorem State.unlatch_err (s : State) : s.unlatch.err = s.err := rfl

@[simp] theorem State.store_busy (s : State) (a : Nat) (vs : List Byte) : (s.store a vs).busy = s.busy := rfl
@[simp] theorem State.store_eqFlag (s : State) (a : Nat) (vs : List Byte) : (s.store a vs).eqFlag = s.eqFlag := rfl
@[simp] theorem State.store_halt (s : State) (a : Nat) (vs : List Byte) : (s.store a vs).halt = s.halt := rfl
@[simp] theorem State.store_ovr (s : State) (a : Nat) (vs : List Byte) : (s.store a vs).ovr = s.ovr := rfl
@[simp] theorem State.store_err (s : State) (a : Nat) (vs : List Byte) : (s.store a vs).err = s.err := rfl

@[simp] theorem State.noteRead_busy (s : State) (r : HostRead) : (s.noteRead r).busy = s.busy := rfl
@[simp] theorem State.noteRead_eqFlag (s : State) (r : HostRead) : (s.noteRead r).eqFlag = s.eqFlag := rfl
@[simp] theorem State.noteRead_halt (s : State) (r : HostRead) : (s.noteRead r).halt = s.halt := rfl
@[simp] theorem State.noteRead_ovr (s : State) (r : HostRead) : (s.noteRead r).ovr = s.ovr := rfl
@[simp] theorem State.noteRead_err (s : State) (r : HostRead) : (s.noteRead r).err = s.err := rfl

@[simp] theorem State.complete_busy (s : State) : s.complete.busy = false := State.setBusy_busy s false
@[simp] theorem State.complete_eqFlag (s : State) : s.complete.eqFlag = s.eqFlag := State.setBusy_eqFlag s false
@[simp] theorem State.complete_halt (s : State) : s.complete.halt = s.halt := State.setBusy_halt s false
@[simp] theorem State.complete_ovr (s : State) : s.complete.ovr = s.ovr := State.setBusy_ovr s false
@[simp] theorem State.complete_err (s : State) : s.complete.err = s.err := State.setBusy_err s false

@[simp] theorem State.raise_busy (s : State) (e : ErrorKind) : (s.raise e).busy = false := by simp [State.raise]
@[simp] theorem State.raise_eqFlag (s : State) (e : ErrorKind) : (s.raise e).eqFlag = s.eqFlag := by
  simp [State.raise]
@[simp] theorem State.raise_halt (s : State) (e : ErrorKind) : (s.raise e).halt = true := by simp [State.raise]
@[simp] theorem State.raise_ovr (s : State) (e : ErrorKind) : (s.raise e).ovr = s.ovr := by simp [State.raise]
@[simp] theorem State.raise_err (s : State) (e : ErrorKind) : (s.raise e).err = errorCode e := by
  simp [State.raise]

@[simp] theorem State.platformReset_busy (s : State) : s.platformReset.busy = false := by
  simp [State.busy]
@[simp] theorem State.platformReset_eqFlag (s : State) : s.platformReset.eqFlag = false := by
  simp [State.eqFlag]
@[simp] theorem State.platformReset_halt (s : State) : s.platformReset.halt = false := by
  simp [State.halt]
@[simp] theorem State.platformReset_ovr (s : State) : s.platformReset.ovr = false := by
  simp [State.ovr]
@[simp] theorem State.platformReset_err (s : State) : s.platformReset.err = 0 := by simp [State.err]

/-! STATUS as a whole word after a write of a field. -/

theorem setStatusBit_busy_false (w : Word) : setStatusBit w 0 false = w &&& 0xFFFFFFFE#32 := by
  simp [setStatusBit]

theorem setStatusBit_busy_true (w : Word) : setStatusBit w 0 true = w ||| 0x00000001#32 := by
  simp [setStatusBit]

theorem setStatusBit_ovr_true (w : Word) : setStatusBit w 3 true = w ||| 0x00000008#32 := by
  simp [setStatusBit]

/-- STATUS after error entry (60_exceptions.md R93), as one expression: bits 1, 3 and 31:8 stay. -/
theorem raise_status_word (w : Word) (c : BitVec 4) :
    setStatusBit (setStatusBit (setErrField w c) 2 true) 0 false =
      (w &&& 0xFFFFFF0A#32) ||| (c.setWidth 32 <<< 4) ||| 0x00000004#32 := by
  apply BitVec.eq_of_getLsbD_eq
  intro j hj
  rw [getLsbD_setStatusBit _ _ _ _ (by omega), getLsbD_setStatusBit _ _ _ _ (by omega), getLsbD_setErrField]
  have h : ∀ k < 32, (0xFFFFFF0A#32).getLsbD k = decide (k = 1 ∨ k = 3 ∨ 8 ≤ k) := by decide
  have h4 : ∀ k < 32, (0x00000004#32).getLsbD k = decide (k = 2) := by decide
  simp only [BitVec.getLsbD_or, BitVec.getLsbD_and, h j hj, h4 j hj, BitVec.getLsbD_shiftLeft,
    BitVec.getLsbD_setWidth]
  by_cases h1 : 4 ≤ j
  · by_cases h2 : j < 8
    · have : ¬ (j = 1 ∨ j = 3 ∨ 8 ≤ j) := by omega
      have e0 : j ≠ 0 := by omega
      have e2 : j ≠ 2 := by omega
      have e : ¬ j < 4 := by omega
      have e' : j - 4 < 32 := by omega
      simp [h1, h2, this, e0, e2, hj, e, e']
    · have : j = 1 ∨ j = 3 ∨ 8 ≤ j := by omega
      have e0 : j ≠ 0 := by omega
      have e2 : j ≠ 2 := by omega
      have e : 4 ≤ j - 4 := by omega
      simp [h2, this, e0, e2, BitVec.getLsbD_of_ge c _ e]
  · have : j = 0 ∨ j = 1 ∨ j = 2 ∨ j = 3 := by omega
    rcases this with rfl | rfl | rfl | rfl <;> simp

/-- What a read of STATUS returns has the fields of the word below bit 8 and 0 above (R31). -/
theorem getLsbD_statusReadValue (w : Word) (j : Nat) :
    (statusReadValue w).getLsbD j = (w.getLsbD j && decide (j < 8)) := by
  by_cases hj : j < 32
  · have h : ∀ k < 32, (0x000000FF#32).getLsbD k = decide (k < 8) := by decide
    simp only [statusReadValue, BitVec.getLsbD_and, h j hj]
  · simp [BitVec.getLsbD_of_ge _ _ (Nat.le_of_not_lt hj)]

end Sys2Proof.Machine
end

