-- ==== Sys2Proof/Laws/Values.lean ====
section
/-! SUPPORT. Arrays of bytes as values: bits, lengths, and the two conversions undo each other (20_memory.md
R39; 40_pack.md R66, R68; 41_rotate.md R71). -/

namespace Sys2Proof.Machine

theorem leValue_lt (vs : List Byte) : leValue vs < 2 ^ (8 * vs.length) := by
  induction vs with
  | nil => simp [leValue]
  | cons v vs ih =>
    have h1 : v.toNat < 256 := v.isLt
    have h2 : 2 ^ (8 * (v :: vs).length) = 256 * 2 ^ (8 * vs.length) := by
      rw [List.length_cons, show 8 * (vs.length + 1) = 8 + 8 * vs.length by ring, pow_add]
      norm_num
    rw [h2, leValue]
    omega

/-- Bit p of the value of an array is bit p mod 8 of byte p div 8 (R39). -/
theorem testBit_leValue (vs : List Byte) (p : Nat) :
    (leValue vs).testBit p = (vs.getD (p / 8) 0#8).getLsbD (p % 8) := by
  induction vs generalizing p with
  | nil => simp [leValue]
  | cons v vs ih =>
    have hv : v.toNat < 2 ^ 8 := v.isLt
    have e : leValue (v :: vs) = 2 ^ 8 * leValue vs + v.toNat := by
      simp only [leValue]
      omega
    rw [e, Nat.testBit_two_pow_mul_add _ hv]
    split
    · rename_i h
      have h1 : p / 8 = 0 := by omega
      have h2 : p % 8 = p := by omega
      rw [h1, h2]
      simp [BitVec.getLsbD]
    · rename_i h
      have h1 : p / 8 = (p - 8) / 8 + 1 := by omega
      have h2 : p % 8 = (p - 8) % 8 := by omega
      rw [ih, h1, h2]
      simp

@[simp] theorem length_leBytes (n v : Nat) : (leBytes n v).length = n := by
  induction n generalizing v with
  | zero => rfl
  | succ n ih => simp [leBytes, ih]

theorem getElem?_leBytes {n k : Nat} (v : Nat) (h : k < n) :
    (leBytes n v)[k]? = some (BitVec.ofNat 8 (v / 256 ^ k)) := by
  induction n generalizing v k with
  | zero => omega
  | succ n ih =>
    cases k with
    | zero => simp [leBytes]
    | succ k =>
      rw [leBytes, List.getElem?_cons_succ, ih _ (by omega), Nat.div_div_eq_div_mul, pow_succ, Nat.mul_comm]

theorem leValue_leBytes (n v : Nat) : leValue (leBytes n v) = v % 256 ^ n := by
  induction n generalizing v with
  | zero => simp [leBytes, leValue, Nat.mod_one]
  | succ n ih =>
    rw [leBytes, leValue, ih, BitVec.toNat_ofNat, show (256 : Nat) ^ (n + 1) = 256 * 256 ^ n by ring, Nat.mod_mul]

theorem leBytes_leValue (vs : List Byte) : leBytes vs.length (leValue vs) = vs := by
  induction vs with
  | nil => rfl
  | cons v vs ih =>
    have hv : v.toNat < 256 := v.isLt
    rw [List.length_cons, leBytes, leValue]
    have h1 : (v.toNat + 256 * leValue vs) / 256 = leValue vs := by omega
    rw [h1, ih]
    congr 1
    apply BitVec.eq_of_toNat_eq
    rw [BitVec.toNat_ofNat]
    omega

theorem rotl1_lt (n v : Nat) : rotl1 n v < 2 ^ n := Nat.mod_lt _ (Nat.two_pow_pos n)

/-- Bit p of the rotated value is bit (p - 1) mod n of the value (R71). -/
theorem testBit_rotl1 {n v p : Nat} (hv : v < 2 ^ n) (hp : p < n) :
    (rotl1 n v).testBit p = v.testBit ((p + n - 1) % n) := by
  rw [rotl1, Nat.testBit_mod_two_pow, Nat.testBit_or, Nat.testBit_shiftLeft, Nat.testBit_shiftRight]
  simp only [hp, decide_true, Bool.true_and]
  cases p with
  | zero =>
    have h1 : (0 + n - 1) % n = n - 1 := by
      rw [Nat.zero_add]
      exact Nat.mod_eq_of_lt (by omega)
    rw [h1]
    simp
  | succ p =>
    have h1 : (p + 1 + n - 1) % n = p := by
      rw [show p + 1 + n - 1 = p + n by omega, Nat.add_mod_right]
      exact Nat.mod_eq_of_lt (by omega)
    have h2 : v.testBit (n - 1 + (p + 1)) = false := by
      apply Nat.testBit_eq_false_of_lt
      exact Nat.lt_of_lt_of_le hv (Nat.pow_le_pow_right (by omega) (by omega))
    rw [h1, h2]
    simp

@[simp] theorem length_packBytes (n : Nat) (u : List Byte) : (packBytes n u).length = n := by simp [packBytes]

theorem getElem?_packBytes {n i : Nat} (u : List Byte) (h : i < n) :
    (packBytes n u)[i]? = some (packByte fun q => u.getD (8 * i + q) 0#8) := by
  simp [packBytes, h]

/-- Bit q of a packed byte is unpacked byte q, for unpacked bytes of 0 or 1 (40_pack.md R66, R70). -/
theorem getLsbD_packByte {u : Nat → Byte} {q : Nat} (hq : q < 8) (hu : ∀ j < 8, u j = 0#8 ∨ u j = 1#8) :
    (packByte u).getLsbD q = (u q == 1#8) := by
  have key : ∀ b0 b1 b2 b3 b4 b5 b6 b7 : Bool, ∀ q < 8,
      (packByte fun j => BitVec.setWidth 8 (BitVec.ofBool
        ([b0, b1, b2, b3, b4, b5, b6, b7].getD j false))).getLsbD q =
      [b0, b1, b2, b3, b4, b5, b6, b7].getD q false := by decide
  have hb : ∀ j < 8, u j = BitVec.setWidth 8 (BitVec.ofBool
      ([u 0 == 1#8, u 1 == 1#8, u 2 == 1#8, u 3 == 1#8, u 4 == 1#8, u 5 == 1#8, u 6 == 1#8, u 7 == 1#8].getD j
        false)) := by
    intro j hj
    have : j = 0 ∨ j = 1 ∨ j = 2 ∨ j = 3 ∨ j = 4 ∨ j = 5 ∨ j = 6 ∨ j = 7 := by omega
    have hj' := hu j hj
    rcases this with rfl | rfl | rfl | rfl | rfl | rfl | rfl | rfl <;>
      · rcases hj' with h | h <;> simp [h]
  have hp : packByte u = packByte fun j => BitVec.setWidth 8 (BitVec.ofBool
      ([u 0 == 1#8, u 1 == 1#8, u 2 == 1#8, u 3 == 1#8, u 4 == 1#8, u 5 == 1#8, u 6 == 1#8, u 7 == 1#8].getD j
        false)) := by
    simp only [packByte]
    rw [← hb 0 (by omega), ← hb 1 (by omega), ← hb 2 (by omega), ← hb 3 (by omega), ← hb 4 (by omega),
      ← hb 5 (by omega), ← hb 6 (by omega), ← hb 7 (by omega)]
  rw [hp, key _ _ _ _ _ _ _ _ q hq]
  have : q = 0 ∨ q = 1 ∨ q = 2 ∨ q = 3 ∨ q = 4 ∨ q = 5 ∨ q = 6 ∨ q = 7 := by omega
  rcases this with rfl | rfl | rfl | rfl | rfl | rfl | rfl | rfl <;> rfl

@[simp] theorem length_unpackBytes (n : Nat) (p : List Byte) : (unpackBytes n p).length = n := by
  simp [unpackBytes]

/-- Unpacked byte k is 1 or 0 as bit k mod 8 of packed byte k div 8 is set or not (R68, R70). -/
theorem getElem?_unpackBytes {n k : Nat} (p : List Byte) (h : k < n) :
    (unpackBytes n p)[k]? = some (if (p.getD (k / 8) 0#8).getLsbD (k % 8) then 1#8 else 0#8) := by
  have key : ∀ v : Byte, ∀ j < 8, (v >>> j) &&& 1#8 = if v.getLsbD j then 1#8 else 0#8 := by
    intro v j hj
    apply BitVec.eq_of_getLsbD_eq
    intro i hi
    rw [BitVec.getLsbD_and, BitVec.getLsbD_ushiftRight]
    have h1 : ∀ i < 8, (1#8).getLsbD i = decide (i = 0) := by decide
    rw [h1 i hi]
    cases hv : v.getLsbD j <;> by_cases h0 : i = 0
    · subst h0
      simp [hv]
    · simp [h0]
    · subst h0
      simp [hv]
    · have := h1 i hi
      simp only [h0, decide_false] at this
      simp [h0, this]
  simp only [unpackBytes, List.getElem?_map, List.getElem?_range h, Option.map_some]
  rw [key _ _ (Nat.mod_lt k (by omega))]

theorem unpackedOk_iff (u : List Byte) : unpackedOk u = true ↔ ∀ v ∈ u, v = 0#8 ∨ v = 1#8 := by
  simp [unpackedOk]

end Sys2Proof.Machine
end

