-- ==== Sys2Proof/Laws/Exec.lean ====
section
/-! SUPPORT. What the shared operations of the commands and each command's body can answer. -/

namespace Sys2Proof.Machine

theorem withLatched_some {s : State} {l : Latched} (h : s.latch = some l) (body : Latched → Result) :
    withLatched s body = body l := by
  simp [withLatched, h]

/-- A body that answers a next state ran on a valid latched command (R33). -/
theorem withLatched_next {s t : State} {body : Latched → Result} (h : withLatched s body = .next t) :
    ∃ l, s.latch = some l ∧ body l = .next t := by
  unfold withLatched at h
  split at h
  · cases h
  · exact ⟨_, ‹_›, h⟩

theorem readSpan_ok {s : State} {r : Span} {vs : List Byte} (h : s.data.readBytes r.start r.len = .ok vs)
    (i : Instr) (body : List Byte → Result) : readSpan i s r body = body vs := by
  simp [readSpan, h]

theorem readSpan_error {s : State} {r : Span} {x : Nat} (h : s.data.readBytes r.start r.len = .error x)
    (i : Instr) (body : List Byte → Result) : readSpan i s r body = .fault (.uninit i x) := by
  simp [readSpan, h]

/-- A read that goes on to a next state read only written bytes (20_memory.md R46). -/
theorem readSpan_next {i : Instr} {s t : State} {r : Span} {body : List Byte → Result}
    (h : readSpan i s r body = .next t) :
    ∃ vs, s.data.readBytes r.start r.len = .ok vs ∧ body vs = .next t := by
  unfold readSpan at h
  split at h
  · cases h
  · exact ⟨_, ‹_›, h⟩

/-- Everything a rotation's body can answer: a raise, the scalar no-op, or its array rotated (41_rotate.md R79). -/
theorem rotl1Body_next {v : Variant} {s t : State} (h : rotl1Body v s = .next t) :
    ∃ l, s.latch = some l ∧
      (t = s.raise .unsupportedConfiguration ∨ t = s.raise .addressRange ∨
        (v = .scalar ∧ s.cfg.scalarUnsupportedNoop = true ∧ framesOk l.frames = true ∧
          rotateLengthOk l.bits = false ∧ t = s.complete) ∨
        ∃ vs, framesOk l.frames = true ∧ rotateLengthOk l.bits = true ∧
          Span.inMem s.cfg ⟨l.addrA, l.packedLen⟩ = true ∧
          s.data.readBytes l.addrA l.packedLen = .ok vs ∧
          t = (s.store l.addrA (leBytes l.packedLen (rotl1 l.bits (leValue vs)))).complete) := by
  obtain ⟨l, hl, h⟩ := withLatched_next h
  refine ⟨l, hl, ?_⟩
  simp only at h
  split at h
  · cases h
    exact .inl rfl
  · rename_i hf
    split at h
    · rename_i hn
      split at h
      · rename_i hc
        cases h
        simp only [Bool.and_eq_true, beq_iff_eq] at hc
        exact .inr (.inr (.inl ⟨hc.1, hc.2, by simpa using hf, by simpa using hn, rfl⟩))
      · cases h
        exact .inl rfl
    · rename_i hn
      split at h
      · cases h
        exact .inr (.inl rfl)
      · rename_i hm
        obtain ⟨vs, hr, h⟩ := readSpan_next h
        cases h
        exact .inr (.inr (.inr ⟨vs, by simpa using hf, by simpa using hn, by simpa using hm, hr, rfl⟩))

/-- Everything PACK can answer (40_pack.md R66). -/
theorem execPack_next {s t : State} (h : execPack s = .next t) :
    ∃ l, s.latch = some l ∧
      ((∃ e, t = s.raise e) ∨
        ∃ u, byteLengthOk l.bits = true ∧ Span.inMem s.cfg ⟨l.addrA, l.packedLen⟩ = true ∧
          Span.inMem s.cfg ⟨l.addrB, l.bits⟩ = true ∧
          Span.meets ⟨l.addrA, l.packedLen⟩ ⟨l.addrB, l.bits⟩ = false ∧
          s.data.readBytes l.addrB l.bits = .ok u ∧ unpackedOk u = true ∧
          t = (s.store l.addrA (packBytes l.packedLen u)).complete) := by
  obtain ⟨l, hl, h⟩ := withLatched_next h
  refine ⟨l, hl, ?_⟩
  simp only at h
  split at h
  · cases h
    exact .inl ⟨_, rfl⟩
  · rename_i h1
    split at h
    · cases h
      exact .inl ⟨_, rfl⟩
    · rename_i h2
      split at h
      · cases h
        exact .inl ⟨_, rfl⟩
      · rename_i h3
        obtain ⟨u, hr, h⟩ := readSpan_next h
        split at h
        · cases h
          exact .inl ⟨_, rfl⟩
        · rename_i h4
          cases h
          simp only [Bool.not_eq_true', Bool.or_eq_true, not_or, Bool.not_eq_false] at h1 h2 h3 h4
          exact .inr ⟨u, h1, h2.1, h2.2, by simpa using h3, hr, h4, rfl⟩

/-- Everything UNPACK can answer (40_pack.md R68). -/
theorem execUnpack_next {s t : State} (h : execUnpack s = .next t) :
    ∃ l, s.latch = some l ∧
      ((∃ e, t = s.raise e) ∨
        ∃ p, byteLengthOk l.bits = true ∧ Span.inMem s.cfg ⟨l.addrA, l.bits⟩ = true ∧
          Span.inMem s.cfg ⟨l.addrB, l.packedLen⟩ = true ∧
          Span.meets ⟨l.addrA, l.bits⟩ ⟨l.addrB, l.packedLen⟩ = false ∧
          s.data.readBytes l.addrB l.packedLen = .ok p ∧
          t = (s.store l.addrA (unpackBytes l.bits p)).complete) := by
  obtain ⟨l, hl, h⟩ := withLatched_next h
  refine ⟨l, hl, ?_⟩
  simp only at h
  split at h
  · cases h
    exact .inl ⟨_, rfl⟩
  · rename_i h1
    split at h
    · cases h
      exact .inl ⟨_, rfl⟩
    · rename_i h2
      split at h
      · cases h
        exact .inl ⟨_, rfl⟩
      · rename_i h3
        obtain ⟨p, hr, h⟩ := readSpan_next h
        cases h
        simp only [Bool.not_eq_true', Bool.or_eq_true, not_or, Bool.not_eq_false] at h1 h2 h3
        exact .inr ⟨p, h1, h2.1, h2.2, by simpa using h3, hr, rfl⟩

/-- Everything EQUAL can answer (42_compare.md R89). -/
theorem execEqual_next {s t : State} (h : execEqual s = .next t) :
    ∃ l, s.latch = some l ∧
      ((∃ e, t = s.raise e) ∨
        ∃ xs ys, byteLengthOk l.bits = true ∧ Span.inMem s.cfg ⟨l.addrA, l.packedLen⟩ = true ∧
          Span.inMem s.cfg ⟨l.addrB, l.packedLen⟩ = true ∧
          s.data.readBytes l.addrA l.packedLen = .ok xs ∧ s.data.readBytes l.addrB l.packedLen = .ok ys ∧
          t = (s.setEq (equalFlag xs ys)).complete) := by
  obtain ⟨l, hl, h⟩ := withLatched_next h
  refine ⟨l, hl, ?_⟩
  simp only at h
  split at h
  · cases h
    exact .inl ⟨_, rfl⟩
  · rename_i h1
    split at h
    · cases h
      exact .inl ⟨_, rfl⟩
    · rename_i h2
      obtain ⟨xs, hx, h⟩ := readSpan_next h
      obtain ⟨ys, hy, h⟩ := readSpan_next h
      cases h
      simp only [Bool.not_eq_true', Bool.or_eq_true, not_or, Bool.not_eq_false] at h1 h2
      exact .inr ⟨xs, ys, h1, h2.1, h2.2, hx, hy, rfl⟩

/-- Everything a command's body can answer: a raise, a completion that writes no DATA (with EQ written by EQUAL
alone), or a completion that stored its whole write footprint (20_memory.md R42, R43). -/
theorem exec_next {i : Instr} {s t : State} (h : exec i s = .next t) :
    ∃ l, s.latch = some l ∧
      ((∃ e, t = s.raise e) ∨ (i ≠ .equal ∧ t = s.complete) ∨ (∃ b, i = .equal ∧ t = (s.setEq b).complete) ∨
        ∃ r vs, i ≠ .equal ∧ writeSpans i l = [r] ∧ vs.length = r.len ∧ r.inMem s.cfg = true ∧
          t = (s.store r.start vs).complete) := by
  have rot : ∀ v : Variant, exec v.instr s = .next t → rotl1Body v s = .next t := by
    intro v
    cases v <;> exact id
  have key : ∀ v : Variant, rotl1Body v s = .next t → ∃ l, s.latch = some l ∧
      ((∃ e, t = s.raise e) ∨ (v.instr ≠ .equal ∧ t = s.complete) ∨
        (∃ b, v.instr = .equal ∧ t = (s.setEq b).complete) ∨
        ∃ r vs, v.instr ≠ .equal ∧ writeSpans v.instr l = [r] ∧ vs.length = r.len ∧ r.inMem s.cfg = true ∧
          t = (s.store r.start vs).complete) := by
    intro v hv
    obtain ⟨l, hl, h | h | h | ⟨vs, -, -, hm, -, h⟩⟩ := rotl1Body_next hv
    · exact ⟨l, hl, .inl ⟨_, h⟩⟩
    · exact ⟨l, hl, .inl ⟨_, h⟩⟩
    · exact ⟨l, hl, .inr (.inl ⟨by cases v <;> simp [Variant.instr], h.2.2.2.2⟩)⟩
    · refine ⟨l, hl, .inr (.inr (.inr ⟨⟨l.addrA, l.packedLen⟩, _, ?_, ?_, ?_, hm, h⟩))⟩
      · cases v <;> simp [Variant.instr]
      · cases v <;> rfl
      · simp
  cases i with
  | pack =>
    obtain ⟨l, hl, h | ⟨u, -, hm, -, -, -, -, h⟩⟩ := execPack_next h
    · exact ⟨l, hl, .inl h⟩
    · exact ⟨l, hl, .inr (.inr (.inr ⟨_, _, by simp, rfl, by simp, hm, h⟩))⟩
  | unpack =>
    obtain ⟨l, hl, h | ⟨u, -, hm, -, -, -, h⟩⟩ := execUnpack_next h
    · exact ⟨l, hl, .inl h⟩
    · exact ⟨l, hl, .inr (.inr (.inr ⟨_, _, by simp, rfl, by simp, hm, h⟩))⟩
  | rotl1S => exact key .scalar h
  | rotl1V128 => exact key .v128 h
  | rotl1V256 => exact key .v256 h
  | equal =>
    obtain ⟨l, hl, h | ⟨xs, ys, -, -, -, -, -, h⟩⟩ := execEqual_next h
    · exact ⟨l, hl, .inl h⟩
    · exact ⟨l, hl, .inr (.inr (.inl ⟨_, rfl, h⟩))⟩

/-- A perform that answers a next state either raised IllegalCommand or ran the decoded command (60_exceptions.md R95). -/
theorem perform_next {s t : State} (h : perform s = .next t) :
    ∃ l, s.latch = some l ∧
      ((∃ d, decode l.cmd = .error d ∧ t = s.raise .illegalCommand) ∨
        ∃ i, decode l.cmd = .ok i ∧ exec i s = .next t) := by
  obtain ⟨l, hl, h⟩ := withLatched_next h
  refine ⟨l, hl, ?_⟩
  split at h
  · rename_i d hd
    cases h
    exact .inl ⟨d, hd, rfl⟩
  · rename_i i hi
    exact .inr ⟨i, hi, h⟩

/-- What every perform that answers a next state leaves alone: the arguments, the registers, the host's side. -/
theorem perform_frame {s t : State} (h : perform s = .next t) :
    t.cfg = s.cfg ∧ t.len = s.len ∧ t.addrA = s.addrA ∧ t.addrB = s.addrB ∧ t.nframes = s.nframes ∧
      t.program = s.program ∧ t.schedule = s.schedule ∧ t.reads = s.reads ∧ t.latch = none ∧ t.busy = false ∧
      t.ovr = s.ovr := by
  obtain ⟨l, -, ⟨d, -, rfl⟩ | ⟨i, -, h⟩⟩ := perform_next h
  · simp
  · obtain ⟨l, -, ⟨e, rfl⟩ | ⟨-, rfl⟩ | ⟨b, -, rfl⟩ | ⟨r, vs, -, -, -, -, rfl⟩⟩ := exec_next h <;> simp

end Sys2Proof.Machine
end

