-- ==== Sys2Proof/Laws/Step.lean ====
section
/-! SUPPORT. What a host operation, a turn and a step can answer. -/

namespace Sys2Proof.Machine

/-- A host DATA access that answers is in DATA and outside the footprint of a pending command (20_memory.md R45,
R51). -/
theorem hostDataAccess_next {s t next : State} {x : Nat} (h : hostDataAccess s x next = .next t) :
    t = next ∧ x < s.cfg.memSize ∧ ∀ l, s.busy = true → s.latch = some l → inFootprint l x = false := by
  unfold hostDataAccess at h
  split at h
  · cases h
  · split at h
    · cases h
    · rename_i h1 h2
      cases h
      refine ⟨rfl, Nat.lt_of_not_le h1, fun l hb hl => ?_⟩
      simpa [hb, hl] using h2

/-- Everything a CMD write can do (10_state.md R20). -/
theorem writeCmd_cases (s : State) (w : Word) :
    (s.halt = true ∧ writeCmd s w = s) ∨ (s.halt = false ∧ s.busy = true ∧ writeCmd s w = s.setOvr true) ∨
      (s.halt = false ∧ s.busy = false ∧
        writeCmd s w = State.setBusy
          { s with
            latch := some { cmd := w, len := s.len, a := s.addrA, b := s.addrB, nframes := s.nframes } } true) := by
  unfold writeCmd
  cases s.halt <;> cases s.busy <;> simp

/-- Everything a host operation can do to the unit: a register write, a read, or the store of one byte of DATA. -/
theorem hostOp_next {o : HostOp} {s t : State} (h : hostOp o s = .next t) :
    (∃ off r v, o = .regWrite off 32 v ∧ regAt off = some r ∧ t = writeReg s r v) ∨
      (∃ e, t = s.noteRead e) ∨
      (o = .poll ∧ s.busy = true ∧
        t = { s.noteRead (.reg .status (readReg s .status)) with program := .poll :: s.program }) ∨
      ∃ x v, o = .dataWrite x v ∧ x < s.cfg.memSize ∧
        (∀ l, s.busy = true → s.latch = some l → inFootprint l x = false) ∧ t = s.store x [v] := by
  cases o with
  | regWrite off width v =>
    simp only [hostOp, regAccess] at h
    split at h
    · cases h
    · rename_i r hr
      split at hr
      · rename_i hw
        cases h
        cases hw
        exact .inl ⟨off, r, v, rfl, hr, rfl⟩
      · cases hr
  | regRead off width =>
    simp only [hostOp] at h
    split at h
    · cases h
    · cases h
      exact .inr (.inl ⟨_, rfl⟩)
  | dataWrite x v =>
    obtain ⟨rfl, hx, hf⟩ := hostDataAccess_next h
    exact .inr (.inr (.inr ⟨x, v, rfl, hx, hf, rfl⟩))
  | dataRead x =>
    obtain ⟨rfl, -, -⟩ := hostDataAccess_next h
    exact .inr (.inl ⟨_, rfl⟩)
  | poll =>
    simp only [hostOp] at h
    split at h
    · rename_i hb
      cases h
      refine .inr (.inr (.inl ⟨rfl, ?_, rfl⟩))
      rw [readReg, getLsbD_statusReadValue] at hb
      simpa [State.busy] using hb
    · cases h
      exact .inr (.inl ⟨_, rfl⟩)

/-- Everything a step can do: the state it left was well formed, and the turn it took answered. -/
theorem step_next {s t : State} (h : step s = .next t) :
    s.err.toNat < 7 ∧
      (((nextTurn s).1 = .reset ∧ t = State.platformReset { s with schedule := (nextTurn s).2 }) ∨
        ((nextTurn s).1 = .unit ∧ s.performEnabled = false ∧ t = { s with schedule := (nextTurn s).2 }) ∨
        ((nextTurn s).1 = .unit ∧ s.performEnabled = true ∧
          perform { s with schedule := (nextTurn s).2 } = .next t) ∨
        ((nextTurn s).1 = .host ∧ s.program = [] ∧ t = { s with schedule := (nextTurn s).2 }) ∨
        ∃ o rest, (nextTurn s).1 = .host ∧ s.program = o :: rest ∧
          hostOp o { s with schedule := (nextTurn s).2, program := rest } = .next t) := by
  unfold step interleaveStep at h
  split at h
  · cases h
  · rename_i he
    refine ⟨Nat.lt_of_not_le he, ?_⟩
    cases ht : (nextTurn s).1 with
    | reset =>
      rw [ht] at h
      cases h
      exact .inl ⟨rfl, rfl⟩
    | unit =>
      rw [ht] at h
      simp only [takeTurn, unitTurn] at h
      split at h
      · rename_i hp
        exact .inr (.inr (.inl ⟨rfl, hp, h⟩))
      · rename_i hp
        cases h
        exact .inr (.inl ⟨rfl, by simpa [State.performEnabled, State.busy, State.halt] using hp, rfl⟩)
    | host =>
      rw [ht] at h
      simp only [takeTurn, hostTurn] at h
      split at h
      · rename_i hp
        cases h
        exact .inr (.inr (.inr (.inl ⟨rfl, hp, rfl⟩)))
      · rename_i o rest hp
        exact .inr (.inr (.inr (.inr ⟨o, rest, rfl, hp, h⟩)))

/-- A register access reaches a register exactly when it is well formed (10_state.md R19). -/
theorem isSome_regAccess (offset width : Nat) : (regAccess offset width).isSome = regAccessWf offset width := by
  by_cases hw : width = 32
  · subst hw
    by_cases ho : offset < 0x20
    · have key : ∀ k < 0x20, (regAccess k 32).isSome = regAccessWf k 32 := by decide
      exact key offset ho
    · have h : regAt offset = none := by
        unfold regAt
        split_ifs <;> first | rfl | omega
      simp [regAccess, regAccessWf, Config.regW, Config.windowBytes, h, ho]
  · simp [regAccess, regAccessWf, Config.regW, hw]

end Sys2Proof.Machine
end

