-- ==== Sys2Proof/Tests/Slice0.lean ====
section
/-! SUPPORT. The model's own tests: ill-formed terms, written-out words, worked rows of spec/95_test_vectors.md (each
named in its comment), and a witness for the hypotheses of each statement. -/

namespace Sys2Proof.Tests

open Sys2Proof.Machine

set_option Elab.async false

/-! Ill-formed terms (WellFormed.lean), each refused by its check, with the boundary on its good side. -/

theorem test_wf_reserved_bits_refused : CmdFields.rsvOk { op := 3, var := 0, rsv := 1 } = false := by decide
theorem test_wf_op_0_refused : CmdFields.opOk { op := 0x0, var := 0, rsv := 0 } = false := by decide
theorem test_wf_op_5_refused : CmdFields.opOk { op := 0x5, var := 0, rsv := 0 } = false := by decide
theorem test_wf_variant_3_refused : CmdFields.varOk { op := 3, var := 3, rsv := 0 } = false := by decide
theorem test_wf_variant_outside_rotate_refused : CmdFields.varOk { op := 1, var := 1, rsv := 0 } = false := by decide
theorem test_wf_fields_refused :
    CmdFields.wf { op := 3, var := 0, rsv := 1 } = false ∧ CmdFields.wf { op := 0xF, var := 0, rsv := 0 } = false ∧
      CmdFields.wf { op := 3, var := 3, rsv := 0 } = false ∧ CmdFields.wf { op := 3, var := 2, rsv := 0 } = true := by
  decide
theorem test_wf_narrow_access_refused : HostOp.wf Config.standard (.regRead 0x04 16) = false := by decide
theorem test_wf_unaligned_access_refused : HostOp.wf Config.standard (.regWrite 0x02 32 0) = false := by decide
theorem test_wf_access_past_window_refused :
    HostOp.wf Config.standard (.regRead 0x20 32) = false ∧ HostOp.wf Config.standard (.regRead 0x1C 32) = true := by
  decide
theorem test_wf_data_past_memory_refused :
    HostOp.wf Config.standard (.dataRead 4096) = false ∧ HostOp.wf Config.standard (.dataWrite 4095 0) = true := by
  decide

/-! Words written out from the table of 30_encoding.md R61. -/

theorem test_decode_pack : decode 0x00000001 = .ok .pack := by decide
theorem test_decode_unpack : decode 0x00000002 = .ok .unpack := by decide
theorem test_decode_rotl1S : decode 0x00000003 = .ok .rotl1S := by decide
theorem test_decode_rotl1V128 : decode 0x00000013 = .ok .rotl1V128 := by decide
theorem test_decode_rotl1V256 : decode 0x00000023 = .ok .rotl1V256 := by decide
theorem test_decode_equal : decode 0x00000004 = .ok .equal := by decide
/-- ER13 to ER18 of 95_test_vectors.md. -/
theorem test_decode_illegal : ∀ w ∈ [0x00000000, 0x00000033, 0x00000011, 0x00000005, 0x00000043, 0x80000003],
    decodeTableWord 32 w = none := by decide
theorem test_encode : [Instr.pack, .unpack, .rotl1S, .rotl1V128, .rotl1V256, .equal].map encode =
    [0x00000001, 0x00000002, 0x00000003, 0x00000013, 0x00000023, 0x00000004] := by decide
theorem test_decodeTableWord : [1, 2, 3, 0x13, 0x23, 4].map (decodeTableWord 32) =
    [some .pack, some .unpack, some .rotl1S, some .rotl1V128, some .rotl1V256, some .equal] := by decide

/-! Small states. -/

/-- DATA with `vs` at `a`. -/
def bytesAt : Nat → List Byte → Memory
  | _, [] => []
  | a, v :: vs => (a, v) :: bytesAt (a + 1) vs

/-- A latched command with NFRAMES = 1. -/
def cmd (w a b n : Nat) : Latched :=
  { cmd := BitVec.ofNat 32 w, len := BitVec.ofNat 32 n, a := BitVec.ofNat 32 a, b := BitVec.ofNat 32 b, nframes := 1 }

/-- Reset, with `l` latched and pending and the given DATA. -/
def pending (l : Latched) (m : Memory) : State := { State.reset with latch := some l, status := 1, data := m }

/-- `pending` with SCALAR_UNSUPPORTED_NOOP = true. -/
def pendingNoop (l : Latched) (m : Memory) : State :=
  { pending l m with cfg := { memSize := 4096, scalarUnsupportedNoop := true } }

/-- STATUS and the bytes of `Range(a, n)` in the next state. -/
def shows (a n : Nat) : Result → Option (Word × List (Option Byte))
  | .next t => some (t.status, (List.range n).map fun k => t.data.byteAt (a + k))
  | .fault _ => none
  | .refused _ => none

/-- The fault, where there is one. -/
def faultOf : Result → Option Fault
  | .fault f => some f
  | .next _ => none
  | .refused _ => none

/-- The refusal, where there is one. -/
def refusalOf : Result → Option Refusal
  | .refused f => some f
  | .next _ => none
  | .fault _ => none

/-- An answer is a next state that `p` holds of. -/
def nextIs (p : State → Bool) : Result → Bool
  | .next t => p t
  | .fault _ => false
  | .refused _ => false

/-- What the host read last. -/
def lastRead : Result → Option HostRead
  | .next t => t.reads.head?
  | .fault _ => none
  | .refused _ => none

/-! One step per command. -/

/-- The example of 40_pack.md R66: [1,0,1,1,0,0,0,1] packs to 0x8D; the byte after the destination stays. -/
theorem test_pack : shows 0x100 2 (step (pending (cmd 1 0x100 0 8) (bytesAt 0 [1, 0, 1, 1, 0, 0, 0, 1]))) =
    some (0x00000000, [some 0x8D, none]) := by decide +kernel
/-- ER25: a source byte 0x02 is InvalidData. -/
theorem test_pack_invalid_data :
    shows 0x100 1 (step (pending (cmd 1 0x100 0 8) (bytesAt 0 [0, 0, 0, 2, 0, 0, 0, 0]))) =
      some (0x00000064, [none]) := by decide +kernel
/-- The example of 40_pack.md R68: 0x8D unpacks to [1,0,1,1,0,0,0,1]. -/
theorem test_unpack : shows 0x200 9 (step (pending (cmd 2 0x200 0x100 8) (bytesAt 0x100 [0x8D]))) =
    some (0x00000000, [some 1, some 0, some 1, some 1, some 0, some 0, some 0, some 1, none]) := by decide +kernel
/-- ER24: the two ranges share 0x11F. -/
theorem test_unpack_overlap : shows 0x11F 1 (step (pending (cmd 2 0x100 0x11F 32) (bytesAt 0x11F [1, 2, 3, 4]))) =
    some (0x00000054, [some 1]) := by decide +kernel
/-- The example of 41_rotate.md R81. -/
theorem test_rotl1S : shows 0x100 4 (step (pending (cmd 3 0x100 0 32) (bytesAt 0x100 [1, 0, 0, 0]))) =
    some (0x00000000, [some 2, some 0, some 0, some 0]) := by decide +kernel
/-- ER10: with the no-op on, N = 0 and an address outside DATA complete and change nothing. -/
theorem test_rotl1S_noop : shows 0x100 1 (step (pendingNoop (cmd 3 0xFFFFFFF0 0 0) [])) =
    some (0x00000000, [none]) := by decide +kernel
/-- X20: bit 63 crosses to bit 64; X17's wrap is bit 127 to bit 0. -/
theorem test_rotl1V128 : shows 0x105 16 (step (pending (cmd 0x13 0x105 0 128)
    (bytesAt 0x105 [0, 0, 0, 0, 0, 0, 0, 0x80, 0, 0, 0, 0, 0, 0, 0, 0x80]))) =
    some (0x00000000, [some 1, some 0, some 0, some 0, some 0, some 0, some 0, some 0,
      some 1, some 0, some 0, some 0, some 0, some 0, some 0, some 0]) := by decide +kernel
/-- ER6: N = 40 is unsupported for a vector variant, whatever the no-op argument is. -/
theorem test_rotl1V128_unsupported : shows 0x100 1 (step (pendingNoop (cmd 0x13 0x100 0 40)
    (bytesAt 0x100 [1, 2, 3, 4, 5]))) = some (0x00000024, [some 1]) := by decide +kernel
/-- X30: bit 127 crosses the 128-bit lane boundary to bit 128. -/
theorem test_rotl1V256 : shows 0x10F 2 (step (pending (cmd 0x23 0x100 0 256)
    (bytesAt 0x100 (List.replicate 15 0 ++ [0x80] ++ List.replicate 16 0)))) =
    some (0x00000000, [some 0, some 1]) := by decide +kernel
/-- ER19: 0xF01 + 256 passes MEM_SIZE. -/
theorem test_rotl1V256_range : shows 0xF01 1 (step (pending (cmd 0x23 0xF01 0 2048) [])) =
    some (0x00000044, [none]) := by decide +kernel
/-- E5: only the first N/8 bytes are compared. -/
theorem test_equal : shows 0x100 0 (step (pending (cmd 4 0x100 0x110 8)
    (Memory.writeBytes (bytesAt 0x100 [0x01, 0x99]) 0x110 [0x01, 0x77]))) = some (0x00000002, []) := by decide +kernel
/-- E2: byte 3 differs. -/
theorem test_equal_differs : shows 0x100 0 (step (pending (cmd 4 0x100 0x110 32)
    (Memory.writeBytes (bytesAt 0x100 [2, 0, 0, 0]) 0x110 [2, 0, 0, 0x80]))) = some (0x00000000, []) := by
  decide +kernel

/-! Model faults, the order of the checks, and the host's accesses. -/

/-- MF2: Uninit at 0x008 comes before InvalidData for byte 7. -/
theorem test_uninit_before_invalid_data :
    faultOf (step (pending (cmd 1 0x100 0 16) (bytesAt 0 [0, 0, 0, 0, 0, 0, 0, 5]))) =
      some (.uninit .pack 0x008) := by decide +kernel
/-- PR2: with the no-op on, NFRAMES = 0 is reported before the length. -/
theorem test_frames_before_noop :
    shows 0 0 (step (pendingNoop { cmd 3 0x100 0 40 with nframes := 0 } [])) = some (0x00000024, []) := by
  decide +kernel
/-- MF3: the host reads a footprint byte while BUSY = 1; the byte after the footprint is ordinary. -/
theorem test_host_race :
    faultOf (hostOp (.dataRead 0x101) (pending (cmd 3 0x100 0 32) (bytesAt 0x100 [1, 2, 3, 4, 5]))) =
        some (.hostRace 0x101) ∧
      lastRead (hostOp (.dataRead 0x104) (pending (cmd 3 0x100 0 32) (bytesAt 0x100 [1, 2, 3, 4, 5]))) =
        some (.data 0x104 5) := by decide +kernel
/-- CT1: a second CMD write while BUSY sets OVR. -/
theorem test_cmd_write_while_busy :
    nextIs (fun t => t.status == 0x00000009 && t.latch == some (cmd 3 0x100 0 32))
      (hostOp (.regWrite 0x00 32 4) (pending (cmd 3 0x100 0 32) [])) = true := by decide +kernel
/-- CT7: LEN holds every value; the host cannot write STATUS; offset 0x18 reads 0. -/
theorem test_register_reads :
    lastRead (hostOp (.regRead 0x04 32) { State.reset with len := 0xFFFFFFFF }) = some (.reg .len 0xFFFFFFFF) ∧
      nextIs (fun t => t.status == 0) (hostOp (.regWrite 0x14 32 0xFFFFFFFF) State.reset) = true ∧
      lastRead (hostOp (.regRead 0x18 32) State.reset) = some (.reg .reserved18 0) := by decide +kernel
theorem test_host_refusals :
    refusalOf (hostOp (.regRead 0x04 8) State.reset) = some (.registerAccess 0x04 8) ∧
      refusalOf (hostOp (.regWrite 0x20 32 0) State.reset) = some (.registerAccess 0x20 32) ∧
      refusalOf (hostOp (.dataRead 4096) State.reset) = some (.dataAddress 4096) := by decide +kernel
/-- CT5: reset discards a latched command and keeps DATA. -/
theorem test_reset_step :
    nextIs (fun t => t.status == 0 && t.latch == none && t.nframes == 1 && t.data.byteAt 0x100 == some 1)
      (step { pending (cmd 3 0x100 0 32) (bytesAt 0x100 [1, 0, 0, 0]) with schedule := [.reset] }) = true := by
  decide +kernel
/-- POLL reads STATUS and stays the next host operation while the BUSY it read is 1 (30_encoding.md R65). -/
theorem test_poll :
    nextIs (fun t => t.program == [.poll] && t.reads == [.reg .status 1])
        (step { pending (cmd 3 0x100 0 32) [] with program := [.poll], schedule := [.host] }) = true ∧
      nextIs (fun t => t.program == [] && t.reads == [.reg .status 0])
        (step { State.reset with program := [.poll] }) = true := by decide +kernel
/-- `withFetchWord` at reset: the very next step runs the command (an empty length is InvalidLength). -/
theorem test_first_step_from_reset :
    shows 0 0 (step (State.reset.withFetchWord 32 0x00000001)) = some (0x00000014, []) ∧
      shows 0 0 (step (State.reset.withFetchWord 32 0x00000013)) = some (0x00000024, []) ∧
      shows 0 0 (step (State.reset.withFetchWord 32 0x00000000)) = some (0x00000034, []) := by decide +kernel
/-- With nothing placed, a step from reset leaves the machine idle. -/
theorem test_idle_at_reset : nextIs (fun t => t == State.reset) (step State.reset) = true := by decide +kernel
/-- Loops of the host's syntax (30_encoding.md R64). -/
theorem test_host_loop :
    hostOps (.repeatN 2 (.run (asmRotl1S 0x100 32) (.run [.poll] .done)) (.run [asmR .status] .done)) =
      [.regWrite 0x08 32 0x100, .regWrite 0x04 32 32, .regWrite 0x00 32 3, .poll,
        .regWrite 0x08 32 0x100, .regWrite 0x04 32 32, .regWrite 0x00 32 3, .poll, .regRead 0x14 32] := by decide
/-- R119 on an idle unit whose host has nothing left to do. -/
theorem test_run_ends_successfully : runEndsSuccessfully 0 State.reset := ⟨State.reset, rfl, rfl, by decide⟩

/-! Witnesses: a state and operands that meet the hypotheses of each statement, for each of its clauses, at the
boundaries of their ranges. The theorem's name names the statement. -/

/-- PACK of 8 bits at the top of DATA: the destination ends where the source begins. -/
def packS : State := pending (cmd 1 4087 4088 8) (bytesAt 4088 [1, 0, 1, 1, 0, 0, 0, 1])

/-- UNPACK of 8 bits at the top of DATA. -/
def unpackS : State := pending (cmd 2 4088 4087 8) (bytesAt 4087 [0x8D])

/-- A rotation of `n` bits, with the word `w`, of an array that ends at MEM_SIZE. -/
def rotL (w n : Nat) : Latched := cmd w (4096 - n / 8) 0 n

def rotS (w n : Nat) : State := pending (rotL w n) (bytesAt (4096 - n / 8) (0x80 :: List.replicate (n / 8 - 1) 0))

/-- EQUAL of two overlapping ranges of 16 bits at the top of DATA. -/
def equalS : State := pending (cmd 4 4093 4094 16) (bytesAt 4093 [1, 1, 2])

/-- A halted unit: InvalidLength after an EQUAL that found its ranges equal, and an ignored CMD write. -/
def haltedS : State := { State.reset with status := 0x0000001E }

theorem witness_DecodingFollowsTheFields :
    (0x00000040#32).toNat / 64 ≠ 0 ∧ (0x80000003#32).toNat / 64 ≠ 0 ∧
      (∀ w ∈ [0x1, 0x2, 0x3, 0x13, 0x23, 0x4], (BitVec.ofNat 32 w).toNat / 64 = 0) ∧
      (∀ w ∈ [0x0, 0x5, 0xF, 0x33, 0x11, 0x24, 0x3F], (BitVec.ofNat 32 w).toNat / 64 = 0 ∧
        ¬ ((BitVec.ofNat 32 w).toNat % 16 ∈ [1, 2, 4] ∧ (BitVec.ofNat 32 w).toNat / 16 % 4 = 0) ∧
        ¬ ((BitVec.ofNat 32 w).toNat % 16 = 0x3 ∧ (BitVec.ofNat 32 w).toNat / 16 % 4 ∈ [0, 1, 2])) ∧
      (State.reset.halt = false ∧ State.reset.busy = false) ∧
      ∃ (s : State) (l : Latched) (d : DecodeError), s.latch = some l ∧ decode l.cmd = .error d :=
  ⟨by decide, by decide, by decide, by decide, by decide, pending (cmd 0 0 0 0) [], _, .reservedOp, rfl, by decide⟩
theorem witness_EveryOtherWordRaisesIllegalCommand : ∃ (s : State) (l : Latched), s.latch = some l ∧
    l.cmd ∉ [0x00000001#32, 0x00000002#32, 0x00000003#32, 0x00000013#32, 0x00000023#32, 0x00000004#32] :=
  ⟨pending (cmd 0x33 0x100 0 40) [], _, rfl, by decide⟩
theorem witness_PackCompletes : PackReady packS (cmd 1 4087 4088 8) := by decide +kernel
theorem witness_UnpackCompletes : UnpackReady unpackS (cmd 2 4088 4087 8) := by decide +kernel
/-- The shortest arrays and the longest one. -/
theorem witness_RotationsComplete :
    (∀ w ∈ [3, 0x13, 0x23], RotateReady (rotS w 32) (rotL w 32)) ∧ RotateReady (rotS 0x23 2048) (rotL 0x23 2048) := by
  decide +kernel
theorem witness_EqualCompletes : EqualReady equalS (cmd 4 4093 4094 16) := by decide +kernel

/-- Frame counts 0 and 2; lengths 0, 31, 40 and 4096; the no-op on and off. -/
theorem witness_UnsupportedRotationsRaiseOrDoNothing :
    (0#32 ≠ 1 ∧ 2#32 ≠ 1) ∧
      (∀ n ∈ [0, 31, 40, 4096], n ∉ [32, 64, 128, 256, 512, 1024, 2048] ∧ (rotL 3 n).len.toNat = n ∧
        (rotL 3 n).nframes = 1 ∧ (rotS 3 n).latch = some (rotL 3 n) ∧
        (rotS 3 n).cfg.scalarUnsupportedNoop = false ∧ (pendingNoop (rotL 3 n) []).cfg.scalarUnsupportedNoop = true) := by
  decide +kernel

/-- Check 1 is the first that fails: PR1. -/
theorem witness_ChecksAreMadeInOrder_1 : checkFails (pending (cmd 0x33 0x100 0 40) []) (cmd 0x33 0x100 0 40) 1 :=
  checkFails_one_of_error (d := .reservedVariant) (by decide)
/-- Check 2: PR2. -/
theorem witness_ChecksAreMadeInOrder_2 :
    ∃ s l, s.latch = some l ∧ checkFails s l 2 ∧ ∀ j, 1 ≤ j → j < 2 → ¬ checkFails s l j := by
  have d : decode (cmd 3 0x100 0 40).cmd = .ok .rotl1S := by decide
  refine ⟨pendingNoop { cmd 3 0x100 0 40 with nframes := 0 } [], { cmd 3 0x100 0 40 with nframes := 0 }, rfl,
    (checkFails_two (l := { cmd 3 0x100 0 40 with nframes := 0 }) d).2 (by decide), fun j h1 h2 => ?_⟩
  obtain rfl : j = 1 := by omega
  exact checkFails_one d
/-- Check 3: PR3 (PACK, 12 bits) and the scalar no-op. -/
theorem witness_ChecksAreMadeInOrder_3 :
    (∃ s l, s.latch = some l ∧ checkFails s l 3 ∧ ∀ j, 1 ≤ j → j < 3 → ¬ checkFails s l j) ∧
      ∃ s l, s.latch = some l ∧ isScalarNoop s l ∧ checkFails s l 3 ∧ ∀ j, 1 ≤ j → j < 3 → ¬ checkFails s l j := by
  constructor
  · have d : decode (cmd 1 0xFFF 0xFFF 12).cmd = .ok .pack := by decide
    refine ⟨pending (cmd 1 0xFFF 0xFFF 12) [], _, rfl, (checkFails_three d).2 (by decide), fun j h1 h2 => ?_⟩
    obtain rfl | rfl : j = 1 ∨ j = 2 := by omega
    · exact checkFails_one d
    · rw [checkFails_two d]
      decide
  · have d : decode (cmd 3 0x100 0 40).cmd = .ok .rotl1S := by decide
    refine ⟨pendingNoop (cmd 3 0x100 0 40) [], _, rfl, ⟨d, rfl, by decide, rfl⟩, (checkFails_three d).2 (by decide),
      fun j h1 h2 => ?_⟩
    obtain rfl | rfl : j = 1 ∨ j = 2 := by omega
    · exact checkFails_one d
    · rw [checkFails_two d]
      decide

/-- PACK of 32 bits fails none of the first three checks. -/
theorem not_checkFails_pack (s : State) (a b j : Nat) (h : 1 ≤ j) (h' : j < 4) :
    ¬ checkFails s (cmd 1 a b 32) j := by
  have d : decode (cmd 1 a b 32).cmd = .ok .pack := (by decide : decode 0x00000001 = .ok .pack)
  obtain rfl | rfl | rfl : j = 1 ∨ j = 2 ∨ j = 3 := by omega
  · exact checkFails_one d
  · rw [checkFails_two d]
    exact fun h => (by decide : Instr.pack ∉ rotations) h.1
  · rw [checkFails_three d, if_neg (by decide)]
    show ¬ ((32#32).toNat = 0 ∨ (32#32).toNat % 8 ≠ 0)
    decide

/-- Check 4: PR4 (PACK, out of range by one byte). -/
theorem witness_ChecksAreMadeInOrder_4 :
    ∃ s l, s.latch = some l ∧ checkFails s l 4 ∧ ∀ j, 1 ≤ j → j < 4 → ¬ checkFails s l j := by
  have d : decode (cmd 1 0x100 4065 32).cmd = .ok .pack := by decide
  exact ⟨pending (cmd 1 0x100 4065 32) [], _, rfl, (checkFails_four d).2 (by decide +kernel),
    fun j => not_checkFails_pack _ _ _ j⟩
/-- Check 5: the destination's last byte is the source's first. -/
theorem witness_ChecksAreMadeInOrder_5 :
    ∃ s l, s.latch = some l ∧ checkFails s l 5 ∧ ∀ j, 1 ≤ j → j < 5 → ¬ checkFails s l j := by
  have d : decode (cmd 1 0x100 0x103 32).cmd = .ok .pack := by decide
  refine ⟨pending (cmd 1 0x100 0x103 32) [], _, rfl,
    (checkFails_five d).2 ⟨by decide, 0x103, by decide +kernel⟩, fun j h1 h2 => ?_⟩
  by_cases h : j < 4
  · exact not_checkFails_pack _ _ _ j h1 h
  obtain rfl : j = 4 := by omega
  rw [checkFails_four d]
  decide +kernel

/-- PACK of the 32 bytes at 0 into 0x100 passes checks 4 and 5. -/
theorem not_checkFails_pack_ranges (m : Memory) (j : Nat) (h : 1 ≤ j) (h' : j < 6) :
    ¬ checkFails (pending (cmd 1 0x100 0 32) m) (cmd 1 0x100 0 32) j := by
  have d : decode (cmd 1 0x100 0 32).cmd = .ok .pack := by decide
  by_cases h4 : j < 4
  · exact not_checkFails_pack _ _ _ j h h4
  obtain rfl | rfl : j = 4 ∨ j = 5 := by omega
  · rw [checkFails_four d]
    show ¬ ∃ r ∈ readSpans .pack (cmd 1 0x100 0 32) ++ writeSpans .pack (cmd 1 0x100 0 32), 4096 < r.start + r.len
    decide +kernel
  · rw [checkFails_five d]
    rintro ⟨-, x, r, hr, w, hw, h1, h2⟩
    obtain rfl : r = ⟨0, 32⟩ := List.mem_singleton.1 hr
    obtain rfl : w = ⟨0x100, 4⟩ := List.mem_singleton.1 hw
    simp only [Span.has_iff] at h1 h2
    omega

/-- Check 6: UNWRITTEN source bytes, after a byte that is not 0 or 1. -/
theorem witness_ChecksAreMadeInOrder_6 :
    ∃ s l, s.latch = some l ∧ checkFails s l 6 ∧ ∀ j, 1 ≤ j → j < 6 → ¬ checkFails s l j := by
  have d : decode (cmd 1 0x100 0 32).cmd = .ok .pack := by decide
  exact ⟨pending (cmd 1 0x100 0 32) (bytesAt 0 [5]), _, rfl, (checkFails_six d).2 ⟨1, by decide +kernel⟩,
    fun j => not_checkFails_pack_ranges _ j⟩
/-- Check 7: the last source byte is 0x02, with everything else in order. -/
theorem witness_ChecksAreMadeInOrder_7 :
    ∃ s l, s.latch = some l ∧ checkFails s l 7 ∧ ∀ j, 1 ≤ j → j < 7 → ¬ checkFails s l j := by
  have d : decode (cmd 1 0x100 0 32).cmd = .ok .pack := by decide
  refine ⟨pending (cmd 1 0x100 0 32) (bytesAt 0 (List.replicate 31 1 ++ [2])), _, rfl,
    (checkFails_seven d).2 ⟨rfl, 31, by decide, 2, by decide +kernel⟩, fun j h1 h2 => ?_⟩
  by_cases h : j < 6
  · exact not_checkFails_pack_ranges _ j h1 h
  obtain rfl : j = 6 := by omega
  rw [checkFails_six d]
  rintro ⟨x, ⟨r, hr, hx⟩, h⟩
  obtain rfl : r = ⟨0, 32⟩ := List.mem_singleton.1 hr
  have key : ∀ x < 32, (bytesAt 0 (List.replicate 31 1 ++ [2])).byteAt x ≠ none := by decide +kernel
  exact key x (by simpa using hx) h
/-- No check fails: EQUAL of two written ranges. -/
theorem witness_ChecksAreMadeInOrder_none :
    ∃ s l, s.latch = some l ∧ ∀ k, 1 ≤ k → k ≤ 7 → ¬ checkFails s l k := by
  have d : decode (cmd 4 4093 4094 16).cmd = .ok .equal := by decide
  refine ⟨equalS, cmd 4 4093 4094 16, rfl, fun k h1 h2 => ?_⟩
  obtain rfl | rfl | rfl | rfl | rfl | rfl | rfl :
    k = 1 ∨ k = 2 ∨ k = 3 ∨ k = 4 ∨ k = 5 ∨ k = 6 ∨ k = 7 := by omega
  · exact checkFails_one d
  · rw [checkFails_two d]
    decide
  · rw [checkFails_three d]
    decide
  · rw [checkFails_four d]
    decide +kernel
  · rw [checkFails_five d]
    exact fun h => (by decide : Instr.equal ∉ [Instr.pack, Instr.unpack]) h.1
  · rw [checkFails_six d]
    rintro ⟨x, ⟨r, hr, hx⟩, h⟩
    have hx' : 4093 ≤ x ∧ x < 4096 := by
      rcases List.mem_cons.1 hr with rfl | hr
      · have : 4093 ≤ x ∧ x < 4093 + 2 := (Span.has_iff _ _).1 hx
        omega
      · obtain rfl := List.mem_singleton.1 hr
        have : 4094 ≤ x ∧ x < 4094 + 2 := (Span.has_iff _ _).1 hx
        omega
    obtain rfl | rfl | rfl : x = 4093 ∨ x = 4094 ∨ x = 4095 := by omega
    all_goals exact absurd h (by decide +kernel)
  · rw [checkFails_seven d]
    exact fun h => (by decide : Instr.equal ≠ .pack) h.1

theorem witness_PackAndUnpackPlaceLogicalBits :
    (packS.latch = some (cmd 1 4087 4088 8) ∧ packS.halt = false ∧ nextIs (fun t => !t.halt) (exec .pack packS) = true) ∧
      unpackS.latch = some (cmd 2 4088 4087 8) ∧ unpackS.halt = false ∧
      nextIs (fun t => !t.halt) (exec .unpack unpackS) = true := by decide +kernel
/-- 8 bits, with the packed array between the two unpacked ones, and the other way about. -/
theorem witness_PackAndUnpackRoundTrip :
    (0 < 8 ∧ 8 % 8 = 0 ∧ 8 + 8 / 8 ≤ 4096 ∧ (8 + 8 / 8 ≤ 0 ∨ 0 + 8 ≤ 8) ∧ (9 + 8 ≤ 8 ∨ 8 + 8 / 8 ≤ 9) ∧
      (cmd 1 8 0 8).cmd = 0x00000001#32 ∧ (cmd 2 9 8 8).cmd = 0x00000002#32 ∧ packS.halt = false ∧
      ∀ k < 8, (bytesAt 0 [1, 0, 1, 1, 0, 0, 0, 1]).byteAt (0 + k) = some 0x00#8 ∨
        (bytesAt 0 [1, 0, 1, 1, 0, 0, 0, 1]).byteAt (0 + k) = some 0x01#8) ∧
      ((8 + 8 / 8 ≤ 0 ∨ 0 + 8 ≤ 8) ∧ (9 + 8 / 8 ≤ 0 ∨ 0 + 8 ≤ 9) ∧ (cmd 2 0 8 8).cmd = 0x00000002#32 ∧
        (cmd 1 9 0 8).cmd = 0x00000001#32 ∧ ∀ k < 8 / 8, ((bytesAt 8 [0x8D]).byteAt (8 + k)).isSome) := by
  decide +kernel
theorem witness_ValuesAreLittleEndian :
    memValue (bytesAt 4094 [0x34, 0x12]) 4094 2 = some 0x1234 ∧ memValue [] 0 0 = some 0 ∧
      ∀ k < 2, ((bytesAt 4094 [0x34, 0x12]).byteAt (4094 + k)).isSome := by decide +kernel
theorem witness_RotationRotatesTheWholeValue : RotateReady (rotS 3 32) (rotL 3 32) := by decide +kernel
/-- One 32-bit word, one 64-bit word, and two. -/
theorem witness_RotationCarriesBetweenWords : ∀ n ∈ [32, 64, 128], RotateReady (rotS 3 n) (rotL 3 n) := by
  decide +kernel
/-- One lane and two, for each lane width. -/
theorem witness_RotationCarriesBetweenLanes :
    RotateReady (rotS 0x13 128) (rotL 0x13 128) ∧ RotateReady (rotS 0x13 256) (rotL 0x13 256) ∧
      RotateReady (rotS 0x23 512) (rotL 0x23 512) := by decide +kernel
theorem witness_VariantsAgree :
    (rotS 3 64).latch = some (rotL 3 64) ∧ (rotL 3 64).len.toNat ∈ [32, 64, 128, 256, 512, 1024, 2048] ∧
      nextIs (fun _ => true) (exec .rotl1S (rotS 3 64)) = true ∧ (rotS 3 40).cfg.scalarUnsupportedNoop = false ∧
      nextIs (fun _ => true) (exec .rotl1S (rotS 3 40)) = true := by decide +kernel
/-- 32 rotations of three kinds; the array ends at MEM_SIZE. -/
theorem witness_RotationIsPeriodic :
    (rotS 3 32).halt = false ∧ 4092 + 32 / 8 ≤ (rotS 3 32).cfg.memSize ∧
      (∀ k < 32 / 8, ((rotS 3 32).data.byteAt (4092 + k)).isSome) ∧
      (List.replicate 30 (rotL 3 32) ++ [rotL 0x13 32, rotL 0x23 32]).length = 32 ∧
      ∀ l ∈ List.replicate 30 (rotL 3 32) ++ [rotL 0x13 32, rotL 0x23 32], IsRotation l 4092 32 := by decide +kernel
/-- The 1 is at the top position, and at the bottom one. -/
theorem witness_SingleBitMovesOnePositionPerRotation :
    memValue (bytesAt 4092 [0, 0, 0, 0x80]) 4092 (32 / 8) = some (2 ^ 31) ∧
      memValue (bytesAt 4092 [1, 0, 0, 0]) 4092 (32 / 8) = some (2 ^ 0) ∧
      ∀ l ∈ [rotL 3 32, rotL 0x13 32], IsRotation l 4092 32 := by decide +kernel
/-- An array that a rotation changes, and the two that it leaves. -/
theorem witness_FixedPointsAreAllZerosAndAllOnes : ∀ v ∈ [0x01#8, 0x00#8, 0xFF#8],
    RotateReady (pending (rotL 3 32) (bytesAt 4092 (List.replicate 4 v))) (rotL 3 32) := by decide +kernel
theorem witness_RotationPreservesOnes :
    RotateReady (pending (rotL 3 32) (bytesAt 4092 (List.replicate 4 0xAA))) (rotL 3 32) ∧
      ∀ k < 32 / 8, (bytesAt 4092 (List.replicate 4 0xAA)).byteAt (4092 + k) = some 0xAA#8 := by decide +kernel
/-- Two adjacent copies, the second one ending at MEM_SIZE. -/
theorem witness_VariantsCompareEqual :
    IsRotation (cmd 3 4088 0 32) 4088 32 ∧ IsRotation (cmd 0x13 4092 0 32) 4092 32 ∧
      IsRotation (cmd 0x23 4092 0 32) 4092 32 ∧ (cmd 4 4088 4092 32).cmd = 0x00000004#32 ∧
      (4088 + 32 / 8 ≤ 4092 ∨ 4092 + 32 / 8 ≤ 4088) ∧
      ∀ k < 32 / 8, ((bytesAt 4088 [1, 2, 3, 4, 1, 2, 3, 4]).byteAt (4088 + k)).isSome ∧
        (bytesAt 4088 [1, 2, 3, 4, 1, 2, 3, 4]).byteAt (4092 + k) =
          (bytesAt 4088 [1, 2, 3, 4, 1, 2, 3, 4]).byteAt (4088 + k) := by decide +kernel
theorem witness_ErrorEntryChangesOnlyStatus :
    (pending (cmd 0 0 0 0) []).halt = false ∧ nextIs (fun t => t.halt) (perform (pending (cmd 0 0 0 0) [])) = true := by
  decide +kernel
/-- A raise, a success, and the halted unit at each turn. -/
theorem witness_HaltIsSetByAnErrorAndStays :
    ((pending (cmd 0 0 0 0) []).halt = false ∧ nextIs (fun t => t.halt) (step (pending (cmd 0 0 0 0) [])) = true) ∧
      ((nextTurn packS).1 = .unit ∧ packS.busy = true ∧ nextIs (fun t => !t.halt) (step packS) = true) ∧
      (haltedS.halt = true ∧ (nextTurn haltedS).1 = .host ∧ nextIs (fun _ => true) (step haltedS) = true) ∧
      ((nextTurn { haltedS with schedule := [.unit] }).1 = .unit ∧
        nextIs (fun _ => true) (step { haltedS with schedule := [.unit] }) = true) ∧
      nextIs (fun _ => true) (step { haltedS with program := [.regWrite 0x00 32 1] }) = true := by decide +kernel
theorem witness_OnlyResetLeavesTheHaltedState :
    (nextIs (fun _ => true) (step haltedS) = true ∧ (nextTurn haltedS).1 ≠ .reset ∧ haltedS.ovr = true) ∧
      (nextIs (fun _ => true) (step { haltedS with schedule := [.reset] }) = true ∧
        (nextTurn { haltedS with schedule := [.reset] }).1 = .reset) ∧
      haltedS.halt = true ∧ haltedS.busy = false := by decide +kernel
/-- The turns: reset, a perform, an idle unit, an accepted CMD write. -/
theorem witness_BusyFollowsCommandWritesAndPerforms :
    nextIs (fun _ => true) (step { packS with schedule := [.reset] }) = true ∧
      ((nextTurn packS).1 = .unit ∧ packS.busy = true ∧ packS.halt = false ∧
        nextIs (fun _ => true) (step packS) = true) ∧
      nextIs (fun _ => true) (step { State.reset with schedule := [.unit] }) = true ∧
      ((nextTurn { State.reset with program := [.regWrite 0x00 32 4] }).1 = .host ∧
        nextIs (fun _ => true) (step { State.reset with program := [.regWrite 0x00 32 4] }) = true) := by decide +kernel
theorem witness_EqIsWrittenOnlyByEqual :
    ((nextTurn equalS).1 = .unit ∧ equalS.busy = true ∧ equalS.halt = false ∧
        nextIs (fun t => !t.halt) (step equalS) = true ∧ equalS.latch = some (cmd 4 4093 4094 16) ∧
        decode (cmd 4 4093 4094 16).cmd = .ok .equal) ∧
      nextIs (fun _ => true) (step haltedS) = true ∧
      nextIs (fun _ => true) (step { haltedS with schedule := [.reset] }) = true := by decide +kernel
/-- An ignored CMD write with OVR 0, and with OVR 1. -/
theorem witness_OvrRecordsAnIgnoredCommandWrite : ∀ v ∈ [0x1, 0x9],
    let s := { packS with
      status := BitVec.ofNat 32 v, schedule := [.host], program := [.regWrite 0x00 32 4] }
    (nextTurn s).1 = .host ∧ s.busy = true ∧ s.halt = false ∧ nextIs (fun t => t.ovr) (step s) = true := by
  decide +kernel
theorem witness_CommandWriteLatchesOrIsIgnored :
    haltedS.halt = true ∧ (packS.halt = false ∧ packS.busy = true) ∧
      State.reset.halt = false ∧ State.reset.busy = false := by decide +kernel
/-- The first and last offsets, an unaligned one, the first past the window, and two other widths. -/
theorem witness_OnlyAlignedWordAccessesHaveAMove :
    (∀ off ∈ [0x00, 0x1C], (32 : Nat) = 32 ∧ off % 4 = 0 ∧ off < 0x20) ∧
      ∀ p ∈ [(0x01, 32), (0x1E, 32), (0x20, 32), (0x04, 8), (0x04, 64)],
        ¬ (p.2 = 32 ∧ p.1 % 4 = 0 ∧ p.1 < 0x20) := by decide
/-- PACK of 12 bits (a length that raises): its footprint is 12 bytes and 1 byte. -/
theorem witness_FootprintsAreTheTables :
    (decode (cmd 1 0x100 0 12).cmd = .ok .pack ∧ inFootprint (cmd 1 0x100 0 12) 11 = true ∧
        inFootprint (cmd 1 0x100 0 12) 12 = false ∧ inFootprint (cmd 1 0x100 0 12) 0x100 = true ∧
        inFootprint (cmd 1 0x100 0 12) 0x101 = false) ∧
      decode (cmd 2 0 0 8).cmd = .ok .unpack ∧ decode (cmd 3 0 0 8).cmd = .ok .rotl1S ∧
      decode (cmd 0x13 0 0 8).cmd = .ok .rotl1V128 ∧ decode (cmd 0x23 0 0 8).cmd = .ok .rotl1V256 ∧
      decode (cmd 4 0 0 8).cmd = .ok .equal ∧ decode (cmd 5 0 0 8).cmd = .error .reservedOp := by decide +kernel
/-- The last byte of DATA in the footprint; the byte before the footprint, which is UNWRITTEN; an idle unit; a written
byte. -/
theorem witness_HostAccessToAPendingFootprintIsARace :
    (4095 < (rotS 3 32).cfg.memSize ∧ (rotS 3 32).busy = true ∧ inFootprint (rotL 3 32) 4095 = true) ∧
      ((rotS 3 32).latch = some (rotL 3 32) ∧ inFootprint (rotL 3 32) 4091 = false ∧
        (rotS 3 32).data.byteAt 4091 = none) ∧
      State.reset.busy = false ∧ (bytesAt 4091 [7]).byteAt 4091 = some 7#8 := by decide +kernel
theorem witness_WideHostAccessesAreTheirBytes :
    nextIs (fun _ => true) (hostOp (.dataWrite 4095 1) State.reset) = true ∧
      nextIs (fun _ => true) (hostOp (.dataRead 4095) { State.reset with data := bytesAt 4095 [1] }) = true ∧
      State.reset.cfg.memSize ≤ 4096 := by decide +kernel
/-- The first and last registers, and a write to LEN. -/
theorem witness_ReadsHaveNoSideEffects_registers :
    (∃ t, hostOp (.regRead 0x00 32) State.reset = .next t) ∧
      (∃ t, hostOp (.regRead 0x1C 32) State.reset = .next t) ∧
      ∃ t, (0x04 : Nat) ≠ 0x00 ∧ hostOp (.regWrite 0x04 32 8) State.reset = .next t :=
  ⟨⟨_, rfl⟩, ⟨_, rfl⟩, _, by decide, rfl⟩
/-- The first byte, UNWRITTEN, and the last one, written, are each read, and read again a step later. -/
theorem witness_ReadsHaveNoSideEffects : ∀ x ∈ [0, 4095], ∃ s t s' t' : State,
    hostOp (.dataRead x) s = .next t ∧ s.data.byteAt 0 = none ∧ s.data.byteAt 4095 = some 7#8 ∧
      runSteps 1 t = .next s' ∧
      (∀ (j : Nat) (u : State), j ≤ 1 → runSteps j t = .next u → u.data.byteAt x = s.data.byteAt x) ∧
      hostOp (.dataRead x) s' = .next t' := by
  have key : ∀ (x : Nat) (s t : State), t.data = s.data → step t = .next t →
      ∀ (j : Nat) (u : State), j ≤ 1 → runSteps j t = .next u → u.data.byteAt x = s.data.byteAt x := by
    intro x s t hd ht j u hj hu
    obtain rfl | rfl : j = 0 ∨ j = 1 := by omega
    · cases hu
      rw [hd]
    · rw [runSteps, ht] at hu
      cases hu
      rw [hd]
  intro x hx
  simp only [List.mem_cons, List.not_mem_nil, or_false] at hx
  obtain rfl | rfl := hx <;>
    exact ⟨{ State.reset with data := bytesAt 4095 [7] }, _, _, _, rfl, rfl, rfl, rfl, key _ _ _ rfl rfl, rfl⟩
/-- A DATA that differs outside the footprint alone; a perform that completes, and one that raises. -/
theorem witness_PerformTouchesOnlyItsFootprint :
    (packS.latch = some (cmd 1 4087 4088 8) ∧ nextIs (fun t => !t.halt) (perform packS) = true ∧
        ∀ x, inFootprint (cmd 1 4087 4088 8) x = true → (packS.data.setByte 0 5).byteAt x = packS.data.byteAt x) ∧
      (pending (cmd 0 0 0 0) []).halt = false ∧ nextIs (fun t => t.halt) (perform (pending (cmd 0 0 0 0) [])) = true := by
  refine ⟨⟨rfl, by decide +kernel, fun x h => ?_⟩, by decide, by decide +kernel⟩
  rw [Memory.byteAt_setByte, if_neg]
  rintro rfl
  revert h
  decide
theorem witness_PseudoInstructionsLatchTheirCommand : State.reset.halt = false ∧ State.reset.busy = false := by decide
/-- A busy unit and a halted one. -/
theorem witness_PollReadsStatusUntilIdle : ∀ v ∈ [0x00000001, 0x00000064],
    let s := { packS with status := BitVec.ofNat 32 v, schedule := [.host], program := [.poll] }
    s.err.toNat ≤ 6 ∧ s.schedule = .host :: [] ∧ s.program = .poll :: [] := by decide +kernel
/-- A pending command with ERR 0, and a halted unit with the highest code in use. -/
theorem witness_ResetSetsTheRegistersAndKeepsData : ∀ v ∈ [0x00000001, 0x00000064],
    let s := { packS with status := BitVec.ofNat 32 v, schedule := [.reset] }
    s.err.toNat ≤ 6 ∧ s.schedule = .reset :: [] := by decide +kernel
/-- A legal word and an illegal one, with the turn in the schedule and with an empty schedule. -/
theorem witness_AStepRunsTheLatchedCommand :
    (packS.latch = some (cmd 1 4087 4088 8) ∧ packS.busy = true ∧ packS.halt = false ∧ packS.err = 0 ∧
        decode (cmd 1 4087 4088 8).cmd = .ok .pack ∧ packS.schedule = [] ∧
        State.schedule { packS with schedule := [.unit, .reset] } = .unit :: [.reset]) ∧
      decode (cmd 0x43 0 0 8).cmd = .error .reservedBits := by decide +kernel

/-- A pending command at the top of DATA meets the invariant; so does the halted unit. -/
theorem witness_EveryStepKeepsTheInvariant :
    (Inv packS ∧ nextIs (fun _ => true) (step packS) = true) ∧
      (Inv haltedS ∧ nextIs (fun _ => true) (step haltedS) = true) := by
  have h1 : ∀ j, 8 ≤ j → (0x00000001#32).getLsbD j = false := by
    intro j hj
    rw [← BitVec.testBit_toNat]
    exact Nat.testBit_lt_two_pow (Nat.lt_of_lt_of_le (by decide : 1 < 2 ^ 8) (Nat.pow_le_pow_right (by omega) hj))
  have h2 : ∀ j, 8 ≤ j → (0x0000001E#32).getLsbD j = false := by
    intro j hj
    rw [← BitVec.testBit_toNat]
    exact Nat.testBit_lt_two_pow (Nat.lt_of_lt_of_le (by decide : 30 < 2 ^ 8) (Nat.pow_le_pow_right (by omega) hj))
  exact ⟨⟨⟨by decide, by decide +kernel, by decide +kernel, by decide, by decide, by decide, by decide, h1⟩,
      by decide +kernel⟩,
    ⟨⟨by decide, by decide, by decide, by decide, by decide, by decide, by decide, h2⟩, by decide +kernel⟩⟩
/-- The smallest and the largest MEM_SIZE. -/
theorem witness_InvariantHoldsAtReset : ∀ m ∈ [1, 2 ^ 32],
    Config.wf { memSize := m, scalarUnsupportedNoop := true } := by decide
/-- An empty schedule, one that delays the perform, and one with a reset before it. -/
theorem witness_APendingCommandIsPerformedUnlessReset : ∀ ts ∈ [[], [Turn.host, .host], [.host, .reset, .unit]],
    State.busy { packS with schedule := ts } = true ∧ State.halt { packS with schedule := ts } = false := by
  intro ts _
  exact ⟨(by decide : packS.busy = true), (by decide : packS.halt = false)⟩

end Sys2Proof.Tests
end

section
/-! PROOFS. What a CMD write, each turn of a step and a perform do to the flags of STATUS (10_state.md R20 to R30). -/

namespace Sys2Proof.Machine

variable {s t : State} {l : Latched} {i : Instr}

/-! A CMD write, by the state of the unit (R20), and the flags after it. -/

theorem writeCmd_of_halted (hh : s.halt = true) (w : Word) : writeCmd s w = s := by
  simp [writeCmd, hh]

theorem writeCmd_of_busy (hh : s.halt = false) (hb : s.busy = true) (w : Word) :
    writeCmd s w = { s with status := s.status ||| 0x00000008#32 } := by
  simp [writeCmd, hh, hb, State.setOvr, setStatusBit_ovr_true]

theorem writeCmd_of_idle (hh : s.halt = false) (hb : s.busy = false) (w : Word) :
    writeCmd s w =
      { s with
        status := s.status ||| 0x00000001#32
        latch := some { cmd := w, len := s.len, a := s.addrA, b := s.addrB, nframes := s.nframes } } := by
  simp [writeCmd, hh, hb, State.setBusy, setStatusBit_busy_true]

@[simp] theorem writeCmd_halt (s : State) (w : Word) : (writeCmd s w).halt = s.halt := by
  obtain ⟨-, h⟩ | ⟨-, -, h⟩ | ⟨-, -, h⟩ := writeCmd_cases s w <;> rw [h]
  · exact State.setOvr_halt s true
  · exact State.setBusy_halt _ true

@[simp] theorem writeCmd_eqFlag (s : State) (w : Word) : (writeCmd s w).eqFlag = s.eqFlag := by
  obtain ⟨-, h⟩ | ⟨-, -, h⟩ | ⟨-, -, h⟩ := writeCmd_cases s w <;> rw [h]
  · exact State.setOvr_eqFlag s true
  · exact State.setBusy_eqFlag _ true

/-- A CMD write sets BUSY unless the unit is halted, and never clears it (R26). -/
@[simp] theorem writeCmd_busy (s : State) (w : Word) : (writeCmd s w).busy = (s.busy || !s.halt) := by
  obtain ⟨hh, h⟩ | ⟨-, hb, h⟩ | ⟨hh, -, h⟩ := writeCmd_cases s w <;> rw [h]
  · simp [hh]
  · simp [hb]
  · simp [hh]

/-! Host operations on the register window. -/

theorem hostOp_cmdWrite (s : State) (w : Word) : hostOp (.regWrite 0x00 32 w) s = .next (writeCmd s w) := rfl

theorem regAt_eq_cmd_iff (off : Nat) : regAt off = some .cmd ↔ off = 0x00 := by
  unfold regAt
  split_ifs <;> simp [*]

/-- A host operation leaves STATUS as it is, unless it is a CMD write. -/
theorem hostOp_status {o : HostOp} (h : hostOp o s = .next t) :
    t.status = s.status ∨ ∃ w, o = .regWrite 0x00 32 w ∧ t = writeCmd s w := by
  obtain ⟨off, r, v, rfl, hr, rfl⟩ | ⟨e, rfl⟩ | ⟨-, -, rfl⟩ | ⟨x, v, -, -, -, rfl⟩ := hostOp_next h
  · cases r with
    | cmd =>
      obtain rfl := (regAt_eq_cmd_iff off).mp hr
      exact .inr ⟨v, rfl, rfl⟩
    | _ => exact .inl rfl
  · exact .inl rfl
  · exact .inl rfl
  · exact .inl rfl

/-! What a step does, by the turn it takes. -/

theorem step_of_reset (h : step s = .next t) (ht : (nextTurn s).1 = .reset) :
    t = State.platformReset { s with schedule := (nextTurn s).2 } := by
  obtain ⟨-, h | h | h | h | ⟨o, rest, h⟩⟩ := step_next h
  · exact h.2
  all_goals simp [ht] at h

theorem step_of_unit (h : step s = .next t) (ht : (nextTurn s).1 = .unit) :
    (s.performEnabled = false ∧ t = { s with schedule := (nextTurn s).2 }) ∨
      (s.performEnabled = true ∧ perform { s with schedule := (nextTurn s).2 } = .next t) := by
  obtain ⟨-, h | h | h | h | ⟨o, rest, h⟩⟩ := step_next h
  · simp [ht] at h
  · exact .inl h.2
  · exact .inr h.2
  all_goals simp [ht] at h

theorem step_of_host_cons {o : HostOp} {rest : List HostOp} (h : step s = .next t)
    (ht : (nextTurn s).1 = .host) (hp : s.program = o :: rest) :
    hostOp o { s with schedule := (nextTurn s).2, program := rest } = .next t := by
  obtain ⟨-, h | h | h | h | ⟨o', rest', -, hp', h⟩⟩ := step_next h
  iterate 3 simp [ht] at h
  · simp [hp] at h
  · rw [hp] at hp'
    cases hp'
    exact h

/-- A host turn leaves STATUS as it is, unless the host's operation is a CMD write. -/
theorem step_of_host_status (h : step s = .next t) (ht : (nextTurn s).1 = .host) :
    t.status = s.status ∨ ∃ w rest, s.program = .regWrite 0x00 32 w :: rest ∧
      t = writeCmd { s with schedule := (nextTurn s).2, program := rest } w := by
  cases hp : s.program with
  | nil =>
    obtain ⟨-, h | h | h | h | ⟨o, rest, h⟩⟩ := step_next h
    iterate 3 simp [ht] at h
    · exact .inl (by rw [h.2.2])
    · simp [hp] at h
  | cons o rest =>
    obtain hs | ⟨w, rfl, rfl⟩ := hostOp_status (step_of_host_cons h ht hp)
    · exact .inl hs
    · exact .inr ⟨w, rest, rfl, rfl⟩

theorem step_of_cmdWrite {w : Word} {rest : List HostOp} (h : step s = .next t)
    (ht : (nextTurn s).1 = .host) (hp : s.program = .regWrite 0x00 32 w :: rest) :
    t = writeCmd { s with schedule := (nextTurn s).2, program := rest } w := by
  have hw := step_of_host_cons h ht hp
  rw [hostOp_cmdWrite] at hw
  cases hw
  rfl

theorem performEnabled_iff : s.performEnabled = true ↔ s.busy = true ∧ s.halt = false := by
  simp [State.performEnabled]

/-- An enabled unit's turn is a perform (60_exceptions.md R95). -/
theorem step_of_enabled (h : step s = .next t) (ht : (nextTurn s).1 = .unit) (hb : s.busy = true)
    (hh : s.halt = false) : perform { s with schedule := (nextTurn s).2 } = .next t := by
  obtain ⟨hp, -⟩ | ⟨-, h⟩ := step_of_unit h ht
  · simp [State.performEnabled, hb, hh] at hp
  · exact h

/-- The turn of a unit that is idle or halted changes nothing (log 13). -/
theorem step_of_disabled (h : step s = .next t) (ht : (nextTurn s).1 = .unit)
    (hd : s.busy = false ∨ s.halt = true) : t = { s with schedule := (nextTurn s).2 } := by
  obtain ⟨-, h⟩ | ⟨hp, -⟩ := step_of_unit h ht
  · exact h
  · obtain ⟨hb, hh⟩ := performEnabled_iff.mp hp
    simp [hb, hh] at hd

/-! What a perform does to the flags. -/

theorem perform_busy (h : perform s = .next t) : t.busy = false := by
  obtain ⟨-, -, -, -, -, -, -, -, -, hb, -⟩ := perform_frame h
  exact hb

theorem perform_ovr (h : perform s = .next t) : t.ovr = s.ovr := by
  obtain ⟨-, -, -, -, -, -, -, -, -, -, ho⟩ := perform_frame h
  exact ho

/-- A perform raises or leaves HALT as it is (R28). -/
theorem perform_halt (h : perform s = .next t) : (∃ e, t = s.raise e) ∨ t.halt = s.halt := by
  obtain ⟨l, -, ⟨d, -, rfl⟩ | ⟨i, -, h⟩⟩ := perform_next h
  · exact .inl ⟨_, rfl⟩
  · obtain ⟨l, -, he | ⟨-, rfl⟩ | ⟨b, -, rfl⟩ | ⟨r, vs, -, -, -, -, rfl⟩⟩ := exec_next h
    · exact .inl he
    · exact .inr (by simp)
    · exact .inr (by simp)
    · exact .inr (by simp)

/-- A perform leaves EQ as it is, unless it is an EQUAL that does not raise (R27). -/
theorem perform_eqFlag (h : perform s = .next t) :
    t.eqFlag = s.eqFlag ∨ (t.halt = s.halt ∧ ∃ l, s.latch = some l ∧ decode l.cmd = .ok .equal) := by
  obtain ⟨l, hl, ⟨d, -, rfl⟩ | ⟨i, hd, h⟩⟩ := perform_next h
  · exact .inl (by simp)
  · obtain ⟨-, -, ⟨e, rfl⟩ | ⟨-, rfl⟩ | ⟨b, rfl, rfl⟩ | ⟨r, vs, -, -, -, -, rfl⟩⟩ := exec_next h
    · exact .inl (by simp)
    · exact .inl (by simp)
    · exact .inr ⟨by simp, l, hl, hd⟩
    · exact .inl (by simp)

/-! HALT, BUSY and OVR after a turn of the host or of the unit. -/

theorem step_halt_of_host (h : step s = .next t) (ht : (nextTurn s).1 = .host) : t.halt = s.halt := by
  obtain hs | ⟨w, rest, -, rfl⟩ := step_of_host_status h ht
  · exact congrArg (·.getLsbD 2) hs
  · exact writeCmd_halt _ w

/-- A host turn changes BUSY by an accepted CMD write alone (R26). -/
theorem step_busy_of_host (h : step s = .next t) (ht : (nextTurn s).1 = .host) :
    t.busy = s.busy ∨
      (s.busy = false ∧ s.halt = false ∧ ∃ w rest, s.program = .regWrite 0x00 32 w :: rest) := by
  obtain hs | ⟨w, rest, hp, rfl⟩ := step_of_host_status h ht
  · exact .inl (congrArg (·.getLsbD 0) hs)
  · obtain ⟨-, hw⟩ | ⟨-, -, hw⟩ | ⟨hh, hb, -⟩ :=
      writeCmd_cases { s with schedule := (nextTurn s).2, program := rest } w
    · rw [hw]
      exact .inl rfl
    · rw [hw]
      exact .inl (State.setOvr_busy _ true)
    · exact .inr ⟨hb, hh, w, rest, hp⟩

/-- A host turn sets OVR by a CMD write to a busy unit that is not halted, and never clears it (R29). -/
theorem step_ovr_of_host (h : step s = .next t) (ht : (nextTurn s).1 = .host) :
    t.ovr = s.ovr ∨ (t.ovr = true ∧ s.busy = true ∧ s.halt = false ∧
      ∃ w rest, s.program = .regWrite 0x00 32 w :: rest) := by
  obtain hs | ⟨w, rest, hp, rfl⟩ := step_of_host_status h ht
  · exact .inl (congrArg (·.getLsbD 3) hs)
  · obtain ⟨-, hw⟩ | ⟨hh, hb, hw⟩ | ⟨-, -, hw⟩ :=
      writeCmd_cases { s with schedule := (nextTurn s).2, program := rest } w
    · rw [hw]
      exact .inl rfl
    · rw [hw]
      exact .inr ⟨State.setOvr_ovr _ true, hb, hh, w, rest, hp⟩
    · rw [hw]
      exact .inl (State.setBusy_ovr _ true)

theorem step_ovr_of_unit (h : step s = .next t) (ht : (nextTurn s).1 = .unit) : t.ovr = s.ovr := by
  obtain ⟨-, rfl⟩ | ⟨-, h⟩ := step_of_unit h ht
  · rfl
  · exact perform_ovr (s := { s with schedule := (nextTurn s).2 }) h

/-! EQ after an EQUAL, and the state after an error. -/

theorem perform_of_decode (hl : s.latch = some l) (hd : decode l.cmd = .ok i) : perform s = exec i s := by
  simp [perform, withLatched_some hl, hd]

/-- Two ranges that were read have the same bytes exactly when DATA agrees on them, byte by byte. -/
theorem equalFlag_iff {m : Memory} {a b n : Nat} {xs ys : List Byte} (hx : m.readBytes a n = .ok xs)
    (hy : m.readBytes b n = .ok ys) :
    equalFlag xs ys = true ↔ ∀ k < n, m.byteAt (a + k) = m.byteAt (b + k) := by
  obtain ⟨lx, hx⟩ := Memory.readBytes_eq_ok.mp hx
  obtain ⟨ly, hy⟩ := Memory.readBytes_eq_ok.mp hy
  rw [equalFlag, beq_iff_eq]
  constructor
  · rintro rfl k hk
    rw [hx k hk, hy k hk]
  · intro h
    apply List.ext_getElem? fun k => ?_
    by_cases hk : k < n
    · rw [← hx k hk, ← hy k hk, h k hk]
    · rw [List.getElem?_eq_none (by omega), List.getElem?_eq_none (by omega)]

/-- EQ after an EQUAL that does not raise (42_compare.md R89). -/
theorem perform_equal_eqFlag (h : perform s = .next t) (ht : t.halt = false) (hl : s.latch = some l)
    (hd : decode l.cmd = .ok .equal) :
    t.eqFlag = true ↔
      ∀ k < l.len.toNat / 8, s.data.byteAt (l.a.toNat + k) = s.data.byteAt (l.b.toNat + k) := by
  rw [perform_of_decode hl hd] at h
  obtain ⟨l', hl', ⟨e, rfl⟩ | ⟨xs, ys, -, -, -, hx, hy, rfl⟩⟩ := execEqual_next h
  · simp at ht
  · obtain rfl : l' = l := by simpa [hl'] using hl
    simpa [Latched.packedLen, Latched.bits, Latched.addrA, Latched.addrB] using equalFlag_iff hx hy

/-- Error entry is the state that 60_exceptions.md R93 writes, with the kind's code of R91. -/
theorem raise_eq_afterError (s : State) (e : ErrorKind) : s.raise e = afterError s (errorCode e).toNat := by
  have hs : (s.raise e).status = (afterError s (errorCode e).toNat).status := by
    rw [State.raise_status, raise_status_word, BitVec.or_assoc, afterError]
    cases e <;> rfl
  calc s.raise e = { s with status := (s.raise e).status, latch := none } := rfl
    _ = afterError s (errorCode e).toNat := by rw [hs]; rfl

theorem errorCode_bounds (e : ErrorKind) : 1 ≤ (errorCode e).toNat ∧ (errorCode e).toNat ≤ 6 := by
  cases e <;> decide

end Sys2Proof.Machine
end

section
/-! PROOFS. The numbered checks of 60_exceptions.md R96 decide whether a perform raises. -/

namespace Sys2Proof.Machine

variable {s t : State} {l : Latched} {i : Instr}

/-! The conditions that the meanings test, and check by check what they say. -/

theorem byteLengthOk_iff (n : Nat) : byteLengthOk n = true ↔ n ≠ 0 ∧ n % 8 = 0 := by simp [byteLengthOk]

theorem framesOk_iff (f : Nat) : framesOk f = true ↔ f = 1 := by simp [framesOk, Config.nframesSupported]

theorem rotateLengthOk_iff (n : Nat) :
    rotateLengthOk n = true ↔ n ∈ [32, 64, 128, 256, 512, 1024, 2048] := List.contains_iff_mem

theorem Span.inMem_iff (c : Config) (r : Span) : r.inMem c = true ↔ r.start + r.len ≤ c.memSize := by
  simp [Span.inMem]

/-- Two ranges meet exactly when they share an address (00_scope.md R11). -/
theorem Span.meets_iff (r u : Span) : r.meets u = true ↔ ∃ x, r.has x = true ∧ u.has x = true := by
  simp only [Span.meets, decide_eq_true_eq, Span.has_iff]
  constructor
  · intro h
    exact ⟨max r.start u.start, by omega, by omega⟩
  · rintro ⟨x, hr, hu⟩
    omega

/-- A range can be read exactly when no byte of it is UNWRITTEN (20_memory.md R46). -/
theorem exists_readBytes_iff (m : Memory) (r : Span) :
    (∃ vs, m.readBytes r.start r.len = .ok vs) ↔ ∀ x, r.has x = true → m.byteAt x ≠ none := by
  simp only [Span.has_iff]
  cases h : m.readBytes r.start r.len with
  | ok vs =>
    obtain ⟨hn, hb⟩ := Memory.readBytes_eq_ok.mp h
    refine iff_of_true ⟨vs, rfl⟩ fun x hx => ?_
    have hk : x - r.start < r.len := by omega
    have hx' : m.byteAt x = vs[x - r.start]? := by rw [← hb _ hk]; congr 1; omega
    rw [hx', List.getElem?_eq_getElem (by omega)]
    simp
  | error x =>
    obtain ⟨k, hk, rfl, hx, -⟩ := Memory.readBytes_eq_error.mp h
    refine iff_of_false (by simp) fun hall => ?_
    exact hall (r.start + k) (by omega) hx

theorem unpackedOk_iff_byteAt {m : Memory} {a n : Nat} {u : List Byte} (h : m.readBytes a n = .ok u) :
    unpackedOk u = true ↔ ∀ j < n, ∀ v, m.byteAt (a + j) = some v → v = 0x00#8 ∨ v = 0x01#8 := by
  obtain ⟨hn, hb⟩ := Memory.readBytes_eq_ok.mp h
  rw [unpackedOk_iff]
  constructor
  · intro hu j hj v hv
    exact hu v (List.mem_of_getElem? (hb j hj ▸ hv))
  · intro hm v hv
    obtain ⟨j, hj, rfl⟩ := List.mem_iff_getElem.mp hv
    exact hm j (by omega) _ (by rw [hb j (by omega), List.getElem?_eq_getElem])

/-- No check of R96 fails for the latched command. -/
def NoCheckFails (s : State) (l : Latched) : Prop := ∀ k, 1 ≤ k → k ≤ 7 → ¬ checkFails s l k

theorem failsACheck_iff : failsACheck s l ↔ ¬ (NoCheckFails s l ∨ isScalarNoop s l) := by
  simp only [failsACheck, NoCheckFails, not_or, not_forall, not_not, exists_prop]

theorem not_noCheckFails_of_error {d : DecodeError} (h : decode l.cmd = .error d) : ¬ NoCheckFails s l :=
  fun hn => hn 1 (by omega) (by omega) (checkFails_one_of_error h)

/-- Checks 2 to 7 decide, once the word decodes. -/
theorem noCheckFails_iff (h : decode l.cmd = .ok i) :
    NoCheckFails s l ↔ ¬ checkFails s l 2 ∧ ¬ checkFails s l 3 ∧ ¬ checkFails s l 4 ∧
      ¬ checkFails s l 5 ∧ ¬ checkFails s l 6 ∧ ¬ checkFails s l 7 := by
  constructor
  · intro hn
    exact ⟨hn 2 (by omega) (by omega), hn 3 (by omega) (by omega), hn 4 (by omega) (by omega),
      hn 5 (by omega) (by omega), hn 6 (by omega) (by omega), hn 7 (by omega) (by omega)⟩
  · rintro ⟨h2, h3, h4, h5, h6, h7⟩ k hk1 hk7
    interval_cases k
    · exact checkFails_one h
    all_goals assumption

theorem not_checkFails_three_iff_byteLengthOk (h : decode l.cmd = .ok i) (hi : i ∉ rotations) :
    ¬ checkFails s l 3 ↔ byteLengthOk l.bits = true := by
  rw [checkFails_three h, if_neg hi, byteLengthOk_iff, Latched.bits, not_or, not_not]

theorem not_checkFails_three_iff_rotateLengthOk (h : decode l.cmd = .ok i) (hi : i ∈ rotations) :
    ¬ checkFails s l 3 ↔ rotateLengthOk l.bits = true := by
  rw [checkFails_three h, if_pos hi, rotateLengthOk_iff, Latched.bits, not_not]

theorem not_checkFails_four_iff (h : decode l.cmd = .ok i) :
    ¬ checkFails s l 4 ↔ ∀ r ∈ readSpans i l ++ writeSpans i l, r.inMem s.cfg = true := by
  simp only [checkFails_four h, Span.inMem_iff, not_exists, not_and, not_lt]

theorem not_checkFails_five_iff (h : decode l.cmd = .ok i) (hi : i ∈ [Instr.pack, Instr.unpack]) {r w : Span}
    (hr : readSpans i l = [r]) (hw : writeSpans i l = [w]) : ¬ checkFails s l 5 ↔ w.meets r = false := by
  rw [← Bool.not_eq_true, Span.meets_iff, checkFails_five h]
  simp [hi, hr, hw, and_comm]

theorem not_checkFails_six_iff (h : decode l.cmd = .ok i) :
    ¬ checkFails s l 6 ↔ ∀ r ∈ readSpans i l, ∃ vs, s.data.readBytes r.start r.len = .ok vs := by
  simp only [checkFails_six h, exists_readBytes_iff]
  constructor
  · intro hn r hr x hx hb
    exact hn ⟨x, ⟨r, hr, hx⟩, hb⟩
  · rintro ha ⟨x, ⟨r, hr, hx⟩, hb⟩
    exact ha r hr x hx hb

theorem not_checkFails_seven_iff (h : decode l.cmd = .ok .pack) {u : List Byte}
    (hu : s.data.readBytes l.addrB l.bits = .ok u) : ¬ checkFails s l 7 ↔ unpackedOk u = true := by
  rw [unpackedOk_iff_byteAt hu, checkFails_seven h]
  constructor
  · intro hn j hj v hv
    by_contra hne
    obtain ⟨h0, h1⟩ := not_or.mp hne
    exact hn ⟨rfl, j, hj, v, hv, h0, h1⟩
  · rintro ha ⟨-, j, hj, v, hv, h0, h1⟩
    exact (ha j hj v hv).elim h0 h1

/-! Each command: no check fails exactly when its body's conditions hold, and then it completes. -/

theorem noCheckFails_pack_iff (h : decode l.cmd = .ok .pack) :
    NoCheckFails s l ↔ byteLengthOk l.bits = true ∧ Span.inMem s.cfg ⟨l.addrA, l.packedLen⟩ = true ∧
      Span.inMem s.cfg ⟨l.addrB, l.bits⟩ = true ∧
      Span.meets ⟨l.addrA, l.packedLen⟩ ⟨l.addrB, l.bits⟩ = false ∧
      ∃ u, s.data.readBytes l.addrB l.bits = .ok u ∧ unpackedOk u = true := by
  have h2 : ¬ checkFails s l 2 := by simp [checkFails_two h]
  have h67 : ¬ checkFails s l 6 ∧ ¬ checkFails s l 7 ↔
      ∃ u, s.data.readBytes l.addrB l.bits = .ok u ∧ unpackedOk u = true := by
    rw [not_checkFails_six_iff h]
    simp only [readSpans, List.mem_singleton, forall_eq]
    constructor
    · rintro ⟨⟨u, hu⟩, h7⟩
      exact ⟨u, hu, (not_checkFails_seven_iff h hu).mp h7⟩
    · rintro ⟨u, hu, hok⟩
      exact ⟨⟨u, hu⟩, (not_checkFails_seven_iff h hu).mpr hok⟩
  rw [noCheckFails_iff h, h67, not_checkFails_three_iff_byteLengthOk h (by decide), not_checkFails_four_iff h,
    not_checkFails_five_iff h (by decide) rfl rfl]
  simp only [readSpans, writeSpans, List.cons_append, List.nil_append, List.forall_mem_cons]
  tauto

theorem noCheckFails_unpack_iff (h : decode l.cmd = .ok .unpack) :
    NoCheckFails s l ↔ byteLengthOk l.bits = true ∧ Span.inMem s.cfg ⟨l.addrA, l.bits⟩ = true ∧
      Span.inMem s.cfg ⟨l.addrB, l.packedLen⟩ = true ∧
      Span.meets ⟨l.addrA, l.bits⟩ ⟨l.addrB, l.packedLen⟩ = false ∧
      ∃ p, s.data.readBytes l.addrB l.packedLen = .ok p := by
  have h2 : ¬ checkFails s l 2 := by simp [checkFails_two h]
  have h7 : ¬ checkFails s l 7 := by simp [checkFails_seven h]
  rw [noCheckFails_iff h, not_checkFails_three_iff_byteLengthOk h (by decide), not_checkFails_four_iff h,
    not_checkFails_five_iff h (by decide) rfl rfl, not_checkFails_six_iff h]
  simp only [readSpans, writeSpans, List.cons_append, List.nil_append, List.forall_mem_cons]
  tauto

theorem noCheckFails_equal_iff (h : decode l.cmd = .ok .equal) :
    NoCheckFails s l ↔ byteLengthOk l.bits = true ∧ Span.inMem s.cfg ⟨l.addrA, l.packedLen⟩ = true ∧
      Span.inMem s.cfg ⟨l.addrB, l.packedLen⟩ = true ∧
      (∃ xs, s.data.readBytes l.addrA l.packedLen = .ok xs) ∧
      ∃ ys, s.data.readBytes l.addrB l.packedLen = .ok ys := by
  have h2 : ¬ checkFails s l 2 := by simp [checkFails_two h]
  have h5 : ¬ checkFails s l 5 := by simp [checkFails_five h]
  have h7 : ¬ checkFails s l 7 := by simp [checkFails_seven h]
  rw [noCheckFails_iff h, not_checkFails_three_iff_byteLengthOk h (by decide), not_checkFails_four_iff h,
    not_checkFails_six_iff h]
  simp only [readSpans, writeSpans, List.append_nil, List.forall_mem_cons]
  tauto

theorem Variant.instr_mem_rotations (v : Variant) : v.instr ∈ rotations := by cases v <;> decide

theorem Variant.instr_eq_rotl1S_iff (v : Variant) : v.instr = .rotl1S ↔ v = .scalar := by
  cases v <;> decide

theorem readSpans_rotation (v : Variant) (l : Latched) : readSpans v.instr l = [⟨l.addrA, l.packedLen⟩] := by
  cases v <;> rfl

theorem writeSpans_rotation (v : Variant) (l : Latched) : writeSpans v.instr l = [⟨l.addrA, l.packedLen⟩] := by
  cases v <;> rfl

theorem noCheckFails_rotation_iff {v : Variant} (h : decode l.cmd = .ok v.instr) :
    NoCheckFails s l ↔ framesOk l.frames = true ∧ rotateLengthOk l.bits = true ∧
      Span.inMem s.cfg ⟨l.addrA, l.packedLen⟩ = true ∧
      ∃ vs, s.data.readBytes l.addrA l.packedLen = .ok vs := by
  have hv := Variant.instr_mem_rotations v
  have h2 : ¬ checkFails s l 2 ↔ framesOk l.frames = true := by
    rw [checkFails_two h, framesOk_iff, Latched.frames]
    simp only [hv, true_and, ne_eq, not_not]
  have h5 : ¬ checkFails s l 5 := by
    rw [checkFails_five h]
    cases v <;> simp [Variant.instr]
  have h7 : ¬ checkFails s l 7 := by
    rw [checkFails_seven h]
    cases v <;> simp [Variant.instr]
  rw [noCheckFails_iff h, h2, not_checkFails_three_iff_rotateLengthOk h hv, not_checkFails_four_iff h,
    not_checkFails_six_iff h, readSpans_rotation, writeSpans_rotation]
  simp only [List.cons_append, List.nil_append, List.forall_mem_cons]
  tauto

theorem execPack_of_noCheckFails (hl : s.latch = some l) (hd : decode l.cmd = .ok .pack)
    (hn : NoCheckFails s l) :
    ∃ u, execPack s = .next (s.store l.addrA (packBytes l.packedLen u)).complete := by
  obtain ⟨hlen, hdst, hsrc, hm, u, hu, hok⟩ := (noCheckFails_pack_iff hd).mp hn
  refine ⟨u, ?_⟩
  rw [execPack, withLatched_some hl]
  simp [hlen, hdst, hsrc, hm, readSpan_ok (r := ⟨l.addrB, l.bits⟩) hu, hok]

theorem execUnpack_of_noCheckFails (hl : s.latch = some l) (hd : decode l.cmd = .ok .unpack)
    (hn : NoCheckFails s l) :
    ∃ p, execUnpack s = .next (s.store l.addrA (unpackBytes l.bits p)).complete := by
  obtain ⟨hlen, hdst, hsrc, hm, p, hp⟩ := (noCheckFails_unpack_iff hd).mp hn
  refine ⟨p, ?_⟩
  rw [execUnpack, withLatched_some hl]
  simp [hlen, hdst, hsrc, hm, readSpan_ok (r := ⟨l.addrB, l.packedLen⟩) hp]

theorem execEqual_of_noCheckFails (hl : s.latch = some l) (hd : decode l.cmd = .ok .equal)
    (hn : NoCheckFails s l) : ∃ b, execEqual s = .next (s.setEq b).complete := by
  obtain ⟨hlen, ha, hb, ⟨xs, hx⟩, ys, hy⟩ := (noCheckFails_equal_iff hd).mp hn
  refine ⟨equalFlag xs ys, ?_⟩
  rw [execEqual, withLatched_some hl]
  simp [hlen, ha, hb, readSpan_ok (r := ⟨l.addrA, l.packedLen⟩) hx,
    readSpan_ok (r := ⟨l.addrB, l.packedLen⟩) hy]

theorem rotl1Body_of_noCheckFails {v : Variant} (hl : s.latch = some l) (hd : decode l.cmd = .ok v.instr)
    (hn : NoCheckFails s l) :
    ∃ vs, rotl1Body v s = .next (s.store l.addrA (leBytes l.packedLen (rotl1 l.bits (leValue vs)))).complete := by
  obtain ⟨hf, hlen, hm, vs, hvs⟩ := (noCheckFails_rotation_iff hd).mp hn
  refine ⟨vs, ?_⟩
  rw [rotl1Body, withLatched_some hl]
  simp [hf, hlen, hm, readSpan_ok (r := ⟨l.addrA, l.packedLen⟩) hvs]

theorem isScalarNoop_iff : isScalarNoop s l ↔ decode l.cmd = .ok .rotl1S ∧ framesOk l.frames = true ∧
    rotateLengthOk l.bits = false ∧ s.cfg.scalarUnsupportedNoop = true := by
  have hf : l.nframes = 1 ↔ framesOk l.frames = true := by
    rw [framesOk_iff, Latched.frames, ← BitVec.toNat_inj]
    rfl
  rw [isScalarNoop, hf, ← Bool.not_eq_true, rotateLengthOk_iff, Latched.bits]

theorem rotl1Body_of_scalarNoop (hl : s.latch = some l) (hn : isScalarNoop s l) :
    rotl1Body .scalar s = .next s.complete := by
  obtain ⟨-, hf, hlen, hnoop⟩ := isScalarNoop_iff.mp hn
  rw [rotl1Body, withLatched_some hl]
  simp [hf, hlen, hnoop]

/-! A performed command that answers halts exactly when it fails a check. -/

theorem rotl1Body_halt_iff {v : Variant} (hh : s.halt = false) (hl : s.latch = some l)
    (hd : decode l.cmd = .ok v.instr) (h : rotl1Body v s = .next t) :
    t.halt = false ↔ NoCheckFails s l ∨ isScalarNoop s l := by
  constructor
  · intro ht
    obtain ⟨l', hl', hc⟩ := rotl1Body_next h
    obtain rfl : l' = l := by simpa [hl'] using hl
    obtain rfl | rfl | ⟨rfl, hnoop, hf, hlen, rfl⟩ | ⟨vs, hf, hlen, hm, hvs, rfl⟩ := hc
    · simp at ht
    · simp at ht
    · exact .inr (isScalarNoop_iff.mpr ⟨hd, hf, hlen, hnoop⟩)
    · exact .inl ((noCheckFails_rotation_iff hd).mpr ⟨hf, hlen, hm, vs, hvs⟩)
  · rintro (hn | hn)
    · obtain ⟨vs, he⟩ := rotl1Body_of_noCheckFails hl hd hn
      cases h.symm.trans he
      simpa using hh
    · obtain rfl : v = .scalar := (Variant.instr_eq_rotl1S_iff v).mp (by simpa [hd] using hn.1)
      cases h.symm.trans (rotl1Body_of_scalarNoop hl hn)
      simpa using hh

theorem execPack_halt_iff (hh : s.halt = false) (hl : s.latch = some l)
    (hd : decode l.cmd = .ok .pack) (h : execPack s = .next t) : t.halt = false ↔ NoCheckFails s l := by
  constructor
  · intro ht
    obtain ⟨l', hl', ⟨e, rfl⟩ | ⟨u, hlen, hdst, hsrc, hm, hu, hok, -⟩⟩ := execPack_next h
    · simp at ht
    · obtain rfl : l' = l := by simpa [hl'] using hl
      exact (noCheckFails_pack_iff hd).mpr ⟨hlen, hdst, hsrc, hm, u, hu, hok⟩
  · intro hn
    obtain ⟨u, he⟩ := execPack_of_noCheckFails hl hd hn
    cases h.symm.trans he
    simpa using hh

theorem execUnpack_halt_iff (hh : s.halt = false) (hl : s.latch = some l)
    (hd : decode l.cmd = .ok .unpack) (h : execUnpack s = .next t) : t.halt = false ↔ NoCheckFails s l := by
  constructor
  · intro ht
    obtain ⟨l', hl', ⟨e, rfl⟩ | ⟨p, hlen, hdst, hsrc, hm, hp, -⟩⟩ := execUnpack_next h
    · simp at ht
    · obtain rfl : l' = l := by simpa [hl'] using hl
      exact (noCheckFails_unpack_iff hd).mpr ⟨hlen, hdst, hsrc, hm, p, hp⟩
  · intro hn
    obtain ⟨p, he⟩ := execUnpack_of_noCheckFails hl hd hn
    cases h.symm.trans he
    simpa using hh

theorem execEqual_halt_iff (hh : s.halt = false) (hl : s.latch = some l)
    (hd : decode l.cmd = .ok .equal) (h : execEqual s = .next t) : t.halt = false ↔ NoCheckFails s l := by
  constructor
  · intro ht
    obtain ⟨l', hl', ⟨e, rfl⟩ | ⟨xs, ys, hlen, ha, hb, hx, hy, -⟩⟩ := execEqual_next h
    · simp at ht
    · obtain rfl : l' = l := by simpa [hl'] using hl
      exact (noCheckFails_equal_iff hd).mpr ⟨hlen, ha, hb, ⟨xs, hx⟩, ys, hy⟩
  · intro hn
    obtain ⟨b, he⟩ := execEqual_of_noCheckFails hl hd hn
    cases h.symm.trans he
    simpa using hh

theorem not_isScalarNoop (hd : decode l.cmd = .ok i) (hi : i ≠ .rotl1S) : ¬ isScalarNoop s l := by
  rintro ⟨h, -⟩
  rw [hd] at h
  exact hi (by simpa using h)

/-- One statement for the six commands, split by command; only ROTL1.S has the no-op of 41_rotate.md R84. -/
theorem exec_halt_iff (hh : s.halt = false) (hl : s.latch = some l) (hd : decode l.cmd = .ok i)
    (h : exec i s = .next t) : t.halt = false ↔ NoCheckFails s l ∨ isScalarNoop s l := by
  cases i with
  | pack => rw [or_iff_left (not_isScalarNoop hd (by decide))]; exact execPack_halt_iff hh hl hd h
  | unpack => rw [or_iff_left (not_isScalarNoop hd (by decide))]; exact execUnpack_halt_iff hh hl hd h
  | equal => rw [or_iff_left (not_isScalarNoop hd (by decide))]; exact execEqual_halt_iff hh hl hd h
  | rotl1S => exact rotl1Body_halt_iff (v := .scalar) hh hl hd h
  | rotl1V128 => exact rotl1Body_halt_iff (v := .v128) hh hl hd h
  | rotl1V256 => exact rotl1Body_halt_iff (v := .v256) hh hl hd h

/-- A perform that answers a next state halts the unit exactly when the latched command fails a check (R96). -/
theorem perform_halt_iff (hh : s.halt = false) (hl : s.latch = some l) (h : perform s = .next t) :
    t.halt = true ↔ failsACheck s l := by
  rw [failsACheck_iff, ← Bool.not_eq_false, not_iff_not]
  obtain ⟨l', hl', ⟨d, hd, rfl⟩ | ⟨i, hd, h⟩⟩ := perform_next h
  all_goals obtain rfl : l' = l := by simpa [hl'] using hl
  · have hn : ¬ isScalarNoop s l' := by simp [isScalarNoop, hd]
    simp [not_noCheckFails_of_error hd, hn]
  · exact exec_halt_iff hh hl hd h

end Sys2Proof.Machine
end

section
/-! PROOFS. The statements of 10_state.md. -/

namespace Sys2Proof.Machine

/-- Settles O29. -/
theorem commandWriteLatchesOrIsIgnored : Obligations.CommandWriteLatchesOrIsIgnored := by
  intro s w
  refine ⟨fun hh => ?_, fun hh hb => ?_, fun hh hb => ?_, rfl⟩
  · rw [hostOp_cmdWrite, writeCmd_of_halted hh]
  · rw [hostOp_cmdWrite, writeCmd_of_busy hh hb]
  · rw [hostOp_cmdWrite, writeCmd_of_idle hh hb]

/-- Settles O31: a STATUS read masks the register, and the other two have no storage. -/
theorem reservedBitsReadZero : Obligations.ReservedBitsReadZero := by
  intro s
  refine ⟨⟨statusReadValue s.status, rfl, fun j hj => ?_, fun j hj => ?_⟩, rfl, rfl, fun v => ⟨rfl, rfl, rfl⟩⟩
  · simp [getLsbD_statusReadValue, hj]
  · simp [getLsbD_statusReadValue, hj]

/-- Settles O32: a register access has a move exactly when `regAccess` reaches a register. -/
theorem onlyAlignedWordAccessesHaveAMove : Obligations.OnlyAlignedWordAccessesHaveAMove := by
  intro s off width v
  have hwf : (regAccess off width).isSome = true ↔ width = 32 ∧ off % 4 = 0 ∧ off < 0x20 := by
    simp only [isSome_regAccess, regAccessWf, Bool.and_eq_true, beq_iff_eq, decide_eq_true_eq, and_assoc]
    rfl
  rw [← hwf]
  cases h : regAccess off width with
  | none => simp [hostOp, h]
  | some r => simp [hostOp, h]

/-- Settles O42. -/
theorem resetValuesAreTheTables : Obligations.ResetValuesAreTheTables := by
  refine ⟨fun c s hs => ?_, fun s => by simp [readReg]⟩
  have key : ∃ c', s = State.resetWith c' := by
    obtain rfl | rfl : s = State.resetWith c ∨ s = State.reset := by simpa using hs
    · exact ⟨c, rfl⟩
    · exact ⟨Config.standard, rfl⟩
  obtain ⟨c', rfl⟩ := key
  simp [State.busy, State.eqFlag, State.halt, State.ovr, State.err, readReg]

/-- Settles O26, turn by turn. -/
theorem busyFollowsCommandWritesAndPerforms : Obligations.BusyFollowsCommandWritesAndPerforms := by
  intro s t h
  refine ⟨fun ht => ?_, fun ht hb hh => ?_, fun ht hd => ?_, fun w rest ht hp hb hh => ?_, fun ht => ?_⟩
  · rw [step_of_reset h ht, State.platformReset_busy]
  · exact perform_busy (step_of_enabled h ht hb hh)
  · rw [step_of_disabled h ht hd]
    rfl
  · rw [step_of_cmdWrite h ht hp, writeCmd_busy]
    exact Bool.or_eq_true_iff.mpr (.inr (by simpa [State.halt] using hh))
  · exact step_busy_of_host h ht

/-- Settles O27, turn by turn; the value after EQUAL is `perform_equal_eqFlag`. -/
theorem eqIsWrittenOnlyByEqual : Obligations.EqIsWrittenOnlyByEqual := by
  intro s t h
  refine ⟨fun ht => ?_, fun ht => ?_, fun ht => ?_, fun l ht hb hh hth hl hd => ?_⟩
  · rw [step_of_reset h ht, State.platformReset_eqFlag]
  · obtain hs | ⟨w, rest, -, rfl⟩ := step_of_host_status h ht
    · exact congrArg (·.getLsbD 1) hs
    · exact writeCmd_eqFlag _ w
  · obtain ⟨-, rfl⟩ | ⟨hp, h⟩ := step_of_unit h ht
    · exact .inl rfl
    · obtain ⟨-, hh⟩ := performEnabled_iff.mp hp
      obtain he | ⟨hth, hl⟩ := perform_eqFlag h
      · exact .inl he
      · exact .inr ⟨hh, hth.trans hh, hl⟩
  · exact perform_equal_eqFlag (s := { s with schedule := (nextTurn s).2 }) (step_of_enabled h ht hb hh) hth hl hd

/-- Settles O28, turn by turn. -/
theorem ovrRecordsAnIgnoredCommandWrite : Obligations.OvrRecordsAnIgnoredCommandWrite := by
  intro s t h
  refine ⟨fun w rest ht hp hb hh => ?_, fun ho ht => ?_, fun ht => ?_, fun ho hto => ?_⟩
  · rw [step_of_cmdWrite h ht hp]
    exact writeCmd_of_busy (s := { s with schedule := (nextTurn s).2, program := rest }) hh hb w
  · cases hn : (nextTurn s).1 with
    | reset => exact absurd hn ht
    | unit => rw [step_ovr_of_unit h hn, ho]
    | host =>
      obtain he | ⟨hto, -⟩ := step_ovr_of_host h hn
      · rw [he, ho]
      · exact hto
  · rw [step_of_reset h ht, State.platformReset_ovr]
  · cases hn : (nextTurn s).1 with
    | reset => simp [step_of_reset h hn] at hto
    | unit => simp [step_ovr_of_unit h hn, ho] at hto
    | host =>
      obtain he | ⟨-, hw⟩ := step_ovr_of_host h hn
      · simp [he, ho] at hto
      · exact ⟨rfl, hw⟩

/-- Settles O24: by turn, and for a perform by `perform_halt_iff` over the checks of R96. -/
theorem haltIsSetByAnErrorAndStays : Obligations.HaltIsSetByAnErrorAndStays := by
  intro s t h
  refine ⟨fun hh hth => ?_, fun l ht hb hh hl => ?_, fun hh ht => ?_, fun hh ht => ?_,
    fun w rest hh ht hp => ?_⟩
  · cases hn : (nextTurn s).1 with
    | reset => simp [step_of_reset h hn] at hth
    | host => simp [step_halt_of_host h hn, hh] at hth
    | unit =>
      obtain ⟨-, rfl⟩ | ⟨hp, h⟩ := step_of_unit h hn
      · exact absurd (hh.symm.trans hth) (by decide)
      · obtain ⟨hb, -⟩ := performEnabled_iff.mp hp
        obtain ⟨e, rfl⟩ | he := perform_halt h
        · obtain ⟨h1, h6⟩ := errorCode_bounds e
          exact ⟨rfl, hb, _, h1, h6, raise_eq_afterError _ e⟩
        · exact absurd ((hh.symm.trans he.symm).trans hth) (by decide)
  · exact perform_halt_iff (s := { s with schedule := (nextTurn s).2 }) hh hl (step_of_enabled h ht hb hh)
  · cases hn : (nextTurn s).1 with
    | reset => exact absurd hn ht
    | host => rw [step_halt_of_host h hn, hh]
    | unit =>
      rw [step_of_disabled h hn (.inr hh)]
      exact hh
  · exact step_of_disabled h ht (.inr hh)
  · rw [step_of_cmdWrite h ht hp]
    exact writeCmd_of_halted (s := { s with schedule := (nextTurn s).2, program := rest }) hh w

end Sys2Proof.Machine
end

section
/-! PROOFS. The value of a range (20_memory.md R39), and what each host access of DATA and of the register window
answers (R44, R45, R51). -/

namespace Sys2Proof.Machine

variable {s t : State} {l : Latched} {x : Nat} {v : Byte}

/-! The value of a range, by its bytes and by its bits. -/

theorem memValue_eq_some_iff {m : Memory} {a n w : Nat} :
    memValue m a n = some w ↔ ∃ vs, m.readBytes a n = .ok vs ∧ leValue vs = w := by
  cases h : m.readBytes a n <;> simp [memValue, h]

/-- Byte k of an array is bits 8k+7 to 8k of its value (R39). -/
theorem getElem?_eq_leValue_div {vs : List Byte} {k : Nat} (hk : k < vs.length) :
    vs[k]? = some (BitVec.ofNat 8 (leValue vs / 2 ^ (8 * k))) := by
  have h := getElem?_leBytes (leValue vs) hk
  rwa [leBytes_leValue, show (256 : Nat) = 2 ^ 8 from rfl, ← pow_mul] at h

theorem exists_memValue {m : Memory} {a n : Nat} (h : ∀ k < n, (m.byteAt (a + k)).isSome) :
    ∃ w, memValue m a n = some w := by
  have hr : ∃ vs, m.readBytes a n = .ok vs := by
    refine (exists_readBytes_iff m ⟨a, n⟩).mpr fun y hy => ?_
    obtain ⟨hlo, hhi⟩ : a ≤ y ∧ y < a + n := (Span.has_iff _ _).mp hy
    have hk := h (y - a) (by omega)
    rw [Nat.add_sub_cancel' hlo] at hk
    exact Option.isSome_iff_ne_none.mp hk
  obtain ⟨vs, hvs⟩ := hr
  exact ⟨leValue vs, memValue_eq_some_iff.mpr ⟨vs, hvs, rfl⟩⟩

/-! A host DATA access: refused past MEM_SIZE, a race in a pending footprint, and otherwise its effect. -/

theorem hostDataAccess_of_le (h : s.cfg.memSize ≤ x) (next : State) :
    hostDataAccess s x next = .refused (.dataAddress x) := by
  simp [hostDataAccess, h]

theorem hostDataAccess_of_race (hx : x < s.cfg.memSize) (hb : s.busy = true) (hl : s.latch = some l)
    (hf : inFootprint l x = true) (next : State) : hostDataAccess s x next = .fault (.hostRace x) := by
  simp [hostDataAccess, hx, hb, hl, hf]

theorem hostDataAccess_of_ordinary (hx : x < s.cfg.memSize)
    (h : s.busy = false ∨ ∃ l, s.latch = some l ∧ inFootprint l x = false) (next : State) :
    hostDataAccess s x next = .next next := by
  obtain hb | ⟨l, hl, hf⟩ := h
  · simp [hostDataAccess, hx, hb]
  · simp [hostDataAccess, hx, hl, hf]

theorem hostOp_dataRead_next (h : hostOp (.dataRead x) s = .next t) :
    t = s.noteRead (.data x (hostByte s x)) := by
  obtain ⟨ht, -⟩ := hostDataAccess_next h
  exact ht

theorem hostOp_dataWrite_next (h : hostOp (.dataWrite x v) s = .next t) : t = s.store x [v] := by
  obtain ⟨ht, -⟩ := hostDataAccess_next h
  exact ht

/-! The byte a host read returns, and the bytes after a host write. -/

theorem hostByte_of_written (h : s.data.byteAt x = some v) : hostByte s x = v := by
  simp [hostByte, h]

/-- In one machine, what a host read returns depends on the byte alone, UNWRITTEN or not (R44). -/
theorem hostByte_congr (h : t.data.byteAt x = s.data.byteAt x) : hostByte t x = hostByte s x := by
  rw [hostByte, hostByte, h]

theorem store_singleton_byteAt (s : State) (x : Nat) (v : Byte) (y : Nat) :
    (s.store x [v]).data.byteAt y = if y = x then some v else s.data.byteAt y :=
  Memory.byteAt_setByte s.data x v y

/-! A wide access is its bytes (R45). -/

theorem asmWideWrite_eq_map (addr n w : Nat) :
    asmWideWrite addr n w =
      (List.range n).map fun k => HostOp.dataWrite (addr + k) (BitVec.ofNat 8 (w / 2 ^ (8 * k))) := by
  induction n generalizing addr w with
  | zero => rfl
  | succ n ih =>
    have hdiv : ∀ k, w / 256 / 2 ^ (8 * k) = w / 2 ^ (8 * (k + 1)) := fun k => by
      rw [Nat.div_div_eq_div_mul, Nat.mul_succ, pow_add, Nat.mul_comm]
      rfl
    have haddr : ∀ k, addr + 1 + k = addr + (k + 1) := fun k => by omega
    simp [asmWideWrite, ih, List.range_succ_eq_map, hdiv, haddr, Function.comp_def]

theorem asmWideRead_eq_map (addr n : Nat) :
    asmWideRead addr n = (List.range n).map fun k => HostOp.dataRead (addr + k) := by
  induction n generalizing addr with
  | zero => rfl
  | succ n ih =>
    have haddr : ∀ k, addr + 1 + k = addr + (k + 1) := fun k => by omega
    simp [asmWideRead, ih, List.range_succ_eq_map, haddr, Function.comp_def]

/-! A register access that answers reached a register of the window (10_state.md R19). -/

theorem regAccess_eq_some_iff {off width : Nat} {r : Reg} :
    regAccess off width = some r ↔ width = 32 ∧ regAt off = some r := by
  rw [regAccess, Option.ite_none_right_eq_some, Config.regW]

theorem hostOp_regRead_next {off width : Nat} (h : hostOp (.regRead off width) s = .next t) :
    ∃ r, regAccess off width = some r ∧ t = s.noteRead (.reg r (readReg s r)) := by
  cases hr : regAccess off width with
  | none => simp [hostOp, hr] at h
  | some r => exact ⟨r, rfl, by simpa [hostOp, hr] using h.symm⟩

theorem hostOp_regWrite_next {off width : Nat} {w : Word} (h : hostOp (.regWrite off width w) s = .next t) :
    ∃ r, regAccess off width = some r ∧ t = writeReg s r w := by
  cases hr : regAccess off width with
  | none => simp [hostOp, hr] at h
  | some r => exact ⟨r, rfl, by simpa [hostOp, hr] using h.symm⟩

/-- A register write other than to CMD changes at most the operand registers (R44). -/
theorem writeReg_frame {r : Reg} (hr : r ≠ .cmd) (s : State) (w : Word) :
    writeReg s r w =
      { s with
        len := (writeReg s r w).len
        addrA := (writeReg s r w).addrA
        addrB := (writeReg s r w).addrB
        nframes := (writeReg s r w).nframes } := by
  cases r with
  | cmd => exact absurd rfl hr
  | _ => rfl

end Sys2Proof.Machine
end

section
/-! PROOFS. The statements of 20_memory.md about values and host accesses. -/

namespace Sys2Proof.Machine

/-- Settles O13: bytes by `getElem?_eq_leValue_div`, bits by `testBit_leValue`. -/
theorem valuesAreLittleEndian : Obligations.ValuesAreLittleEndian := by
  refine fun m a n => ⟨fun w hw => ?_, exists_memValue⟩
  obtain ⟨vs, hvs, rfl⟩ := memValue_eq_some_iff.mp hw
  obtain ⟨rfl, hbyte⟩ := Memory.readBytes_eq_ok.mp hvs
  refine ⟨leValue_lt vs, fun k hk => ?_, fun p hp => ?_⟩
  · exact ⟨_, (hbyte k hk).trans (getElem?_eq_leValue_div hk), (BitVec.toNat_ofNat _ 8).symm⟩
  · have hk : p / 8 < vs.length := by omega
    refine ⟨vs[p / 8], (hbyte _ hk).trans (List.getElem?_eq_getElem hk), ?_⟩
    rw [testBit_leValue, List.getD_eq_getElem _ _ hk]

/-- Settles O34: `hostDataAccess` alone decides between the race and the ordinary effect of the access. -/
theorem hostAccessToAPendingFootprintIsARace : Obligations.HostAccessToAPendingFootprintIsARace := by
  intro s x v hx
  refine ⟨fun l hb hl hf => ?_, fun ho => ⟨⟨s.store x [v], ?_, ?_, fun y hy => ?_, rfl⟩, hostByte s x, ?_, ?_⟩⟩
  · exact ⟨hostDataAccess_of_race hx hb hl hf _, hostDataAccess_of_race hx hb hl hf _⟩
  · exact hostDataAccess_of_ordinary hx ho _
  · rw [store_singleton_byteAt, if_pos rfl]
  · rw [store_singleton_byteAt, if_neg hy]
  · exact hostDataAccess_of_ordinary hx ho _
  · exact fun c hc => hostByte_of_written hc

/-- Settles O35: the lists by induction on the width, the frame by what each access answers. -/
theorem wideHostAccessesAreTheirBytes : Obligations.WideHostAccessesAreTheirBytes := by
  refine ⟨asmWideWrite_eq_map, asmWideRead_eq_map, ?_, fun s x v hx => ?_⟩
  · rintro s t x v (h | h)
    · obtain rfl := hostOp_dataRead_next h
      simp [SameRegisters]
    · obtain rfl := hostOp_dataWrite_next h
      simp [SameRegisters]
  · exact ⟨hostDataAccess_of_le hx _, hostDataAccess_of_le hx _⟩

/-- Settles O36: a later read sees the same byte, so `hostByte_congr` gives it the same value. -/
theorem readsHaveNoSideEffects : Obligations.ReadsHaveNoSideEffects := by
  refine ⟨fun s t x h => ?_, fun s t off width h => ?_, fun s t off width w hoff h => ?_⟩
  · refine ⟨hostByte s x, hostOp_dataRead_next h, fun b hb => hostByte_of_written hb, ?_⟩
    intro k s' t' hrun hsame h'
    have hbyte : s'.data.byteAt x = s.data.byteAt x := hsame k s' le_rfl hrun
    rw [hostOp_dataRead_next h', hostByte_congr hbyte]
    rfl
  · obtain ⟨r, -, ht⟩ := hostOp_regRead_next h
    exact ⟨_, ht⟩
  · obtain ⟨r, hr, rfl⟩ := hostOp_regWrite_next h
    obtain ⟨-, hat⟩ := regAccess_eq_some_iff.mp hr
    refine writeReg_frame (fun hcmd => hoff ?_) s w
    exact (regAt_eq_cmd_iff off).mp (hcmd ▸ hat)

end Sys2Proof.Machine
end

section
/-! PROOFS. Command words, their fields and the decoder (30_encoding.md R56, R61 to R63). -/

namespace Sys2Proof

variable {w : Word} {i : Instr}

/-! The fields as parts of the word's number (R56), and the word of given fields. -/

@[simp] theorem opField_toNat (w : Word) : (opField w).toNat = w.toNat % 16 := by
  simp [opField]

@[simp] theorem varField_toNat (w : Word) : (varField w).toNat = w.toNat / 16 % 4 := by
  simp [varField, Nat.shiftRight_eq_div_pow]

@[simp] theorem rsvField_toNat (w : Word) : (rsvField w).toNat = w.toNat / 64 := by
  have hw := w.isLt
  simp only [rsvField, BitVec.extractLsb'_toNat, Nat.shiftRight_eq_div_pow]
  omega

theorem CmdFields.eq_iff_toNat (f g : CmdFields) :
    f = g ↔ f.op.toNat = g.op.toNat ∧ f.var.toNat = g.var.toNat ∧ f.rsv.toNat = g.rsv.toNat := by
  cases f
  cases g
  simp only [CmdFields.mk.injEq, BitVec.toNat_eq]

/-- A word is determined by its fields: the three fields cover its 32 bits (R56). -/
theorem fieldsOf_injective : Function.Injective fieldsOf := by
  intro w v h
  obtain ⟨hop, hvar, hrsv⟩ := (CmdFields.eq_iff_toNat _ _).mp h
  simp only [fieldsOf, opField_toNat, varField_toNat, rsvField_toNat] at hop hvar hrsv
  exact BitVec.eq_of_toNat_eq (by omega)

theorem Laws.Encoding.statement : ∀ i, Laws.Encoding.Statement i
  | .pack => pack
  | .unpack => unpack
  | .rotl1S => rotl1S
  | .rotl1V128 => rotl1V128
  | .rotl1V256 => rotl1V256
  | .equal => equal

theorem fieldsOf_encode (i : Instr) : fieldsOf (encode i) = instrFields i := by
  obtain ⟨-, hfields, -⟩ := Laws.Encoding.statement i
  exact hfields

theorem fieldsOf_eq_instrFields_iff : fieldsOf w = instrFields i ↔ w = encode i := by
  rw [← fieldsOf_encode, fieldsOf_injective.eq_iff]

/-! What the decoder accepts, and what it rejects. -/

/-- R62 accepts exactly the fields of R61's table. -/
theorem decodeFields_eq_ok_iff (f : CmdFields) : decodeFields f = .ok i ↔ f = instrFields i := by
  constructor
  · obtain ⟨op, var, rsv⟩ := f
    unfold decodeFields
    split_ifs <;> intro h <;> cases h <;> simp_all [instrFields]
  · rintro rfl
    cases i <;> rfl

theorem decode_eq_ok_iff : decode w = .ok i ↔ w = encode i := by
  rw [decode, decodeFields_eq_ok_iff, fieldsOf_eq_instrFields_iff]

/-- `decode` in terms of the word's number. -/
theorem decode_eq_ok_iff_toNat :
    decode w = .ok i ↔ w.toNat % 16 = (instrFields i).op.toNat ∧
      w.toNat / 16 % 4 = (instrFields i).var.toNat ∧ w.toNat / 64 = (instrFields i).rsv.toNat := by
  rw [decode, decodeFields_eq_ok_iff, CmdFields.eq_iff_toNat]
  simp [fieldsOf]

theorem exists_decode_error_iff : (∃ d, decode w = .error d) ↔ ∀ i, decode w ≠ .ok i := by
  cases decode w <;> simp

/-- The six command words of R61. -/
def commandWords : List Word :=
  [0x00000001#32, 0x00000002#32, 0x00000003#32, 0x00000013#32, 0x00000023#32, 0x00000004#32]

theorem mem_commandWords_iff : w ∈ commandWords ↔ ∃ i, w = encode i := by
  constructor
  · have hall : ∀ v ∈ commandWords, ∃ i, v = encode i := by
      simp only [commandWords, List.forall_mem_cons]
      exact ⟨⟨.pack, rfl⟩, ⟨.unpack, rfl⟩, ⟨.rotl1S, rfl⟩, ⟨.rotl1V128, rfl⟩, ⟨.rotl1V256, rfl⟩,
        ⟨.equal, rfl⟩, by simp⟩
    exact hall w
  · rintro ⟨i, rfl⟩
    cases i <;> decide

/-- The illegal words are those outside the six (R63). -/
theorem exists_decode_error_iff_notMem : (∃ d, decode w = .error d) ↔ w ∉ commandWords := by
  simp only [exists_decode_error_iff, mem_commandWords_iff, not_exists, ne_eq, decode_eq_ok_iff]

end Sys2Proof

namespace Sys2Proof.Machine

variable {s : State} {l : Latched}

/-- An illegal word raises IllegalCommand, code 3, when it is performed (60_exceptions.md R96, step 1). -/
theorem perform_of_decode_error {d : DecodeError} (hl : s.latch = some l) (hd : decode l.cmd = .error d) :
    perform s = .next (afterError s 3) := by
  rw [perform, withLatched_some hl]
  simp only [hd]
  exact congrArg Host.Outcome.next (raise_eq_afterError s .illegalCommand)

end Sys2Proof.Machine
end

section
/-! PROOFS. The statements of 30_encoding.md. -/

namespace Sys2Proof.Machine

/-- Settles O1: `decode_eq_ok_iff` for all words, and the table's six rows by evaluation. -/
theorem legalCommandWordsAreExactlySix : Obligations.LegalCommandWordsAreExactlySix :=
  ⟨fun _ _ => decode_eq_ok_iff, by decide⟩

/-- Settles O2: each clause on the fields by `decode_eq_ok_iff_toNat`, the latch by `writeCmd_of_idle`. -/
theorem decodingFollowsTheFields : Obligations.DecodingFollowsTheFields := by
  refine ⟨fun w => ⟨fun hrsv => ?_, fun hrsv => ?_⟩, fun s w hh hb => ?_, fun s l d => perform_of_decode_error⟩
  · refine exists_decode_error_iff.mpr fun i hi => hrsv ?_
    obtain ⟨-, -, h⟩ := decode_eq_ok_iff_toNat.mp hi
    cases i <;> exact h
  · have legal (i : Instr) (hf : (instrFields i).rsv.toNat = 0)
        (h : w.toNat % 16 = (instrFields i).op.toNat ∧ w.toNat / 16 % 4 = (instrFields i).var.toNat) :
        decode w = .ok i := by
      obtain ⟨hop, hvar⟩ := h
      exact decode_eq_ok_iff_toNat.mpr ⟨hop, hvar, hrsv.trans hf.symm⟩
    refine ⟨legal .pack rfl, legal .unpack rfl, legal .rotl1S rfl, legal .rotl1V128 rfl, legal .rotl1V256 rfl,
      legal .equal rfl, fun hzero hrot => exists_decode_error_iff.mpr fun i hi => ?_⟩
    obtain ⟨hop, hvar, -⟩ := decode_eq_ok_iff_toNat.mp hi
    cases i with
    | pack | unpack | equal => exact hzero (by simp [hop, hvar, instrFields])
    | rotl1S | rotl1V128 | rotl1V256 => exact hrot (by simp [hop, hvar, instrFields])
  · refine ⟨writeCmd s w, hostOp_cmdWrite s w, by simp [hh], ?_⟩
    rw [writeCmd_of_idle hh hb]

/-- Settles O3: a word outside the six is one that does not decode, and its number says which field is reserved. -/
theorem everyOtherWordRaisesIllegalCommand : Obligations.EveryOtherWordRaisesIllegalCommand := by
  refine ⟨fun w => ?_, fun s l hl hw => ?_, .reservedOp, by decide⟩
  · simp only [List.mem_cons, List.not_mem_nil, or_false, BitVec.toNat_eq, BitVec.toNat_ofNat]
    omega
  · obtain ⟨d, hd⟩ := exists_decode_error_iff_notMem.mpr hw
    exact perform_of_decode_error hl hd

end Sys2Proof.Machine
end

section
/-! PROOFS. PACK and UNPACK as one relation between a packed and an unpacked array of DATA (40_pack.md R66, R68). -/

namespace Sys2Proof.Machine

variable {s t : State} {l : Latched} {m m' : Memory} {p u p' u' n : Nat}

/-! The relation of R70, and what it determines. -/

/-- The packed array at `p` and the unpacked array at `u` hold the same `n` logical bits (40_pack.md R70). -/
def SameLogicalBits (m : Memory) (p u n : Nat) : Prop :=
  ∀ k < n, ∃ v : Byte, m.byteAt (p + k / 8) = some v ∧
    m.byteAt (u + k) = some ((BitVec.ofBool (v.getLsbD (k % 8))).setWidth 8)

/-- Equal packed arrays stand for equal unpacked arrays. -/
theorem SameLogicalBits.unpacked_eq (h : SameLogicalBits m p u n) (h' : SameLogicalBits m' p' u' n)
    (hp : ∀ i < n / 8, m'.byteAt (p' + i) = m.byteAt (p + i)) (hn : n % 8 = 0) :
    ∀ k < n, m'.byteAt (u' + k) = m.byteAt (u + k) := by
  intro k hk
  obtain ⟨v, hv, hu⟩ := h k hk
  obtain ⟨v', hv', hu'⟩ := h' k hk
  obtain rfl : v' = v := Option.some.inj (by rw [← hv', ← hv, hp (k / 8) (by omega)])
  rw [hu', hu]

/-- The relation by groups of eight: one packed byte holds them all (R66). -/
theorem SameLogicalBits.exists_packed {i : Nat} (h : SameLogicalBits m p u n) (hi : i < n / 8) :
    ∃ v : Byte, m.byteAt (p + i) = some v ∧
      ∀ q < 8, m.byteAt (u + (8 * i + q)) = some ((BitVec.ofBool (v.getLsbD q)).setWidth 8) := by
  obtain ⟨v, hv, -⟩ := h (8 * i) (by omega)
  rw [Nat.mul_div_cancel_left i (by omega)] at hv
  refine ⟨v, hv, fun q hq => ?_⟩
  obtain ⟨w, hw, hb⟩ := h (8 * i + q) (by omega)
  rw [show (8 * i + q) / 8 = i by omega] at hw
  rw [show (8 * i + q) % 8 = q by omega] at hb
  obtain rfl : w = v := Option.some.inj (hw.symm.trans hv)
  exact hb

/-- Equal unpacked arrays stand for equal packed arrays: they agree on every bit of a packed byte. -/
theorem SameLogicalBits.packed_eq (h : SameLogicalBits m p u n) (h' : SameLogicalBits m' p' u' n)
    (hu : ∀ k < n, m'.byteAt (u' + k) = m.byteAt (u + k)) :
    ∀ i < n / 8, m'.byteAt (p' + i) = m.byteAt (p + i) := by
  have bit_injective : ∀ a b : Bool, (BitVec.ofBool a).setWidth 8 = (BitVec.ofBool b).setWidth 8 → a = b := by
    decide
  intro i hi
  obtain ⟨v, hv, hb⟩ := h.exists_packed hi
  obtain ⟨v', hv', hb'⟩ := h'.exists_packed hi
  have same_bits : ∀ q < 8, v'.getLsbD q = v.getLsbD q := fun q hq =>
    bit_injective _ _ (Option.some.inj (by rw [← hb' q hq, ← hb q hq, hu (8 * i + q) (by omega)]))
  rw [hv, hv', BitVec.eq_of_getLsbD_eq same_bits]

/-! The lists of bytes that the two commands compute, bit by bit. -/

/-- Logical bit `k` of the packed bytes of an array of 0s and 1s is its byte `k`. -/
theorem exists_getElem?_packBytes {us : List Byte} {k : Nat} (hus : unpackedOk us = true)
    (hn : us.length % 8 = 0) (hk : k < us.length) :
    ∃ v : Byte, (packBytes (us.length / 8) us)[k / 8]? = some v ∧
      us[k]? = some ((BitVec.ofBool (v.getLsbD (k % 8))).setWidth 8) := by
  have hbits : ∀ v ∈ us, v = 0#8 ∨ v = 1#8 := (unpackedOk_iff us).mp hus
  have hgroup : ∀ q < 8, us.getD (8 * (k / 8) + q) 0#8 = 0#8 ∨ us.getD (8 * (k / 8) + q) 0#8 = 1#8 := by
    intro q hq
    rw [List.getD_eq_getElem _ _ (by omega)]
    exact hbits _ (List.getElem_mem _)
  refine ⟨_, getElem?_packBytes us (by omega), ?_⟩
  rw [getLsbD_packByte (Nat.mod_lt k (by omega)) hgroup, Nat.div_add_mod, List.getD_eq_getElem _ _ hk,
    List.getElem?_eq_getElem hk]
  obtain h | h := hbits us[k] (List.getElem_mem hk) <;> rw [h] <;> rfl

/-- Unpacked byte `k` is logical bit `k` of the packed bytes. -/
theorem exists_getElem?_unpackBytes {ps : List Byte} {k : Nat} (hk : k / 8 < ps.length) (hkn : k < n) :
    ∃ v : Byte, ps[k / 8]? = some v ∧
      (unpackBytes n ps)[k]? = some ((BitVec.ofBool (v.getLsbD (k % 8))).setWidth 8) := by
  refine ⟨ps[k / 8], List.getElem?_eq_getElem hk, ?_⟩
  rw [getElem?_unpackBytes ps hkn, List.getD_eq_getElem _ _ hk]
  cases ps[k / 8].getLsbD (k % 8) <;> rfl

/-! A perform that does not halt establishes the relation and writes its destination only. -/

theorem Span.outside_of_meets_eq_false {r w : Span} {k : Nat} (h : w.meets r = false) (hk : k < r.len) :
    r.start + k < w.start ∨ w.start + w.len ≤ r.start + k := by
  rw [Span.meets, decide_eq_false_iff_not] at h
  omega

theorem execPack_sameLogicalBits (hl : s.latch = some l) (h : execPack s = .next t) (ht : t.halt = false) :
    SameLogicalBits t.data l.a.toNat l.b.toNat l.len.toNat ∧
      SameOutside s t l.a.toNat (l.len.toNat / 8) := by
  obtain ⟨l', hl', ⟨e, rfl⟩ | ⟨us, hlen, -, -, hm, hr, hok, rfl⟩⟩ := execPack_next h
  · simp at ht
  obtain rfl : l' = l := by simpa [hl'] using hl
  obtain ⟨-, hn⟩ := (byteLengthOk_iff _).mp hlen
  obtain ⟨hus, hsrc⟩ := Memory.readBytes_eq_ok.mp hr
  simp only [Latched.bits, Latched.packedLen, Latched.addrA, Latched.addrB] at hn hus hsrc hm
  have hout : SameOutside s (s.store l'.addrA (packBytes l'.packedLen us)).complete l'.a.toNat
      (l'.len.toNat / 8) := fun x hx => Memory.byteAt_writeBytes_outside (by rw [length_packBytes]; exact hx)
  refine ⟨fun k hk => ?_, hout⟩
  have hk8 : k / 8 < l'.len.toNat / 8 := by omega
  obtain ⟨v, hv, hu⟩ := exists_getElem?_packBytes (k := k) hok (by omega) (by omega)
  rw [hus] at hv
  refine ⟨v, ?_, ?_⟩
  · exact (Memory.byteAt_writeBytes_inside (by rw [length_packBytes]; exact hk8)).trans hv
  · rw [hout _ (Span.outside_of_meets_eq_false hm hk),
      hsrc k hk, hu]

theorem execUnpack_sameLogicalBits (hl : s.latch = some l) (h : execUnpack s = .next t) (ht : t.halt = false) :
    SameLogicalBits t.data l.b.toNat l.a.toNat l.len.toNat ∧
      SameOutside s t l.a.toNat l.len.toNat := by
  obtain ⟨l', hl', ⟨e, rfl⟩ | ⟨ps, hlen, -, -, hm, hr, rfl⟩⟩ := execUnpack_next h
  · simp at ht
  obtain rfl : l' = l := by simpa [hl'] using hl
  obtain ⟨-, hn⟩ := (byteLengthOk_iff _).mp hlen
  obtain ⟨hps, hsrc⟩ := Memory.readBytes_eq_ok.mp hr
  simp only [Latched.bits, Latched.packedLen, Latched.addrA, Latched.addrB] at hn hps hsrc hm
  have hout : SameOutside s (s.store l'.addrA (unpackBytes l'.bits ps)).complete l'.a.toNat
      l'.len.toNat := fun x hx => Memory.byteAt_writeBytes_outside (by rw [length_unpackBytes]; exact hx)
  refine ⟨fun k hk => ?_, hout⟩
  have hk8 : k / 8 < l'.len.toNat / 8 := by omega
  obtain ⟨v, hv, hu⟩ := exists_getElem?_unpackBytes (ps := ps) (by omega) hk
  refine ⟨v, ?_, ?_⟩
  · rw [hout _ (Span.outside_of_meets_eq_false hm hk8),
      hsrc _ hk8, hv]
  · exact (Memory.byteAt_writeBytes_inside (by rw [length_unpackBytes]; exact hk)).trans hu

/-! A command that is ready fails no check, so performing it completes. -/

theorem exists_readBytes {a : Nat} (h : ∀ k < n, (m.byteAt (a + k)).isSome) :
    ∃ vs, m.readBytes a n = .ok vs := by
  obtain ⟨w, hw⟩ := exists_memValue h
  obtain ⟨vs, hvs, -⟩ := memValue_eq_some_iff.mp hw
  exact ⟨vs, hvs⟩

theorem Span.meets_eq_false_of_le {r w : Span} (h : w.start + w.len ≤ r.start ∨ r.start + r.len ≤ w.start) :
    w.meets r = false := by
  rw [Span.meets, decide_eq_false_iff_not]
  omega

theorem noCheckFails_of_packReady (hd : decode l.cmd = .ok .pack) (h : PackReady s l) : NoCheckFails s l := by
  obtain ⟨-, hpos, hn, hdst, hsrc, hdis, hbits⟩ := h
  obtain ⟨us, hus⟩ : ∃ us, s.data.readBytes l.addrB l.bits = .ok us :=
    exists_readBytes fun k hk => by obtain hb | hb := hbits k hk <;> exact Option.isSome_of_eq_some hb
  refine (noCheckFails_pack_iff hd).mpr ⟨(byteLengthOk_iff _).mpr ⟨hpos.ne', hn⟩, (Span.inMem_iff _ _).mpr hdst,
    (Span.inMem_iff _ _).mpr hsrc, Span.meets_eq_false_of_le hdis, us, hus, ?_⟩
  refine (unpackedOk_iff_byteAt hus).mpr fun k hk v hv => (hbits k hk).imp ?_ ?_
  all_goals exact fun hb => Option.some.inj (hv.symm.trans hb)

theorem noCheckFails_of_unpackReady (hd : decode l.cmd = .ok .unpack) (h : UnpackReady s l) :
    NoCheckFails s l := by
  obtain ⟨-, hpos, hn, hdst, hsrc, hdis, hbytes⟩ := h
  exact (noCheckFails_unpack_iff hd).mpr ⟨(byteLengthOk_iff _).mpr ⟨hpos.ne', hn⟩,
    (Span.inMem_iff _ _).mpr hdst, (Span.inMem_iff _ _).mpr hsrc, Span.meets_eq_false_of_le hdis,
    exists_readBytes hbytes⟩

/-- The state in which the command `l` is latched and pending (60_exceptions.md R95). -/
def State.pending (s : State) (l : Latched) : State :=
  { s with latch := some l, status := s.status ||| 0x00000001#32 }

theorem performCommand_eq (l : Latched) (s : State) : performCommand l s = perform (s.pending l) := rfl

@[simp] theorem State.pending_halt (s : State) (l : Latched) : (s.pending l).halt = s.halt := by
  simp [State.pending, State.halt]

/-- PACK, performed where it is ready (R66): it completes, packs its source and writes nothing else. -/
theorem performCommand_pack (hd : decode l.cmd = .ok .pack) (hh : s.halt = false)
    (hr : PackReady (s.pending l) l) :
    ∃ t, performCommand l s = .next t ∧ t.cfg = s.cfg ∧ t.halt = false ∧
      SameLogicalBits t.data l.a.toNat l.b.toNat l.len.toNat ∧ SameOutside s t l.a.toNat (l.len.toNat / 8) := by
  obtain ⟨us, he⟩ := execPack_of_noCheckFails rfl hd (noCheckFails_of_packReady hd hr)
  refine ⟨_, (perform_of_decode rfl hd).trans he, rfl, by simpa using hh, ?_⟩
  exact execPack_sameLogicalBits (s := s.pending l) rfl he (by simpa using hh)

/-- UNPACK, performed where it is ready (R68): it completes, unpacks its source and writes nothing else. -/
theorem performCommand_unpack (hd : decode l.cmd = .ok .unpack) (hh : s.halt = false)
    (hr : UnpackReady (s.pending l) l) :
    ∃ t, performCommand l s = .next t ∧ t.cfg = s.cfg ∧ t.halt = false ∧
      SameLogicalBits t.data l.b.toNat l.a.toNat l.len.toNat ∧ SameOutside s t l.a.toNat l.len.toNat := by
  obtain ⟨ps, he⟩ := execUnpack_of_noCheckFails rfl hd (noCheckFails_of_unpackReady hd hr)
  refine ⟨_, (perform_of_decode rfl hd).trans he, rfl, by simpa using hh, ?_⟩
  exact execUnpack_sameLogicalBits (s := s.pending l) rfl he (by simpa using hh)

theorem performCommands_pair {l₁ l₂ : Latched} {r : State} (h₁ : performCommand l₁ s = .next t)
    (h₂ : performCommand l₂ t = .next r) : performCommands [l₁, l₂] s = .next r := by
  simp [performCommands, h₁, h₂]

end Sys2Proof.Machine
end

section
/-! PROOFS. The statements of 40_pack.md about logical bits. -/

namespace Sys2Proof.Machine

/-- Settles O11: a PACK or UNPACK that does not halt establishes `SameLogicalBits`, which is R70's relation. -/
theorem packAndUnpackPlaceLogicalBits : Obligations.PackAndUnpackPlaceLogicalBits := by
  refine ⟨fun s t l hl _ h ht => ?_, fun s t l hl _ h ht => ?_⟩
  · obtain ⟨hbits, -⟩ := execPack_sameLogicalBits hl h ht
    exact hbits
  · obtain ⟨hbits, -⟩ := execUnpack_sameLogicalBits hl h ht
    exact hbits

/-- Settles O12: both commands establish `SameLogicalBits` and the second leaves the array in the middle alone, which
determines the array at the end. -/
theorem packAndUnpackRoundTrip : Obligations.PackAndUnpackRoundTrip := by
  constructor
  · rintro s lp lu n p u u2 hh hpack rfl rfl rfl hunpack hlen rfl hsrc hpos hn hp hu hu2 hdis hdis2 hbits
    obtain ⟨t, hpt, hcfg, hht, hbt, hout⟩ := performCommand_pack (decode_eq_ok_iff.mpr hpack) hh
      ⟨rfl, hpos, hn, hp, hu, hdis, hbits⟩
    have hsrc_written : ∀ i < lp.len.toNat / 8, (t.data.byteAt (lp.a.toNat + i)).isSome := fun i hi => by
      obtain ⟨v, hv, -⟩ := hbt.exists_packed hi
      exact Option.isSome_of_eq_some hv
    have hready : UnpackReady (t.pending lu) lu := by
      rw [UnpackReady, hlen, hsrc]
      exact ⟨rfl, hpos, hn, hcfg ▸ hu2, hcfg ▸ hp, hdis2, hsrc_written⟩
    obtain ⟨r, hur, -, hhr, hbr, hout2⟩ := performCommand_unpack (decode_eq_ok_iff.mpr hunpack) hht hready
    rw [hlen] at hbr hout2
    rw [hsrc] at hbr
    refine ⟨r, performCommands_pair hpt hur, hhr, fun k hk => ?_⟩
    calc r.data.byteAt (lu.a.toNat + k)
        = t.data.byteAt (lp.b.toNat + k) := hbt.unpacked_eq hbr (fun i hi => hout2 _ (by omega)) hn k hk
      _ = s.data.byteAt (lp.b.toNat + k) := hout _ (by omega)
  · rintro s lu lp n p u p2 hh hunpack rfl rfl rfl hpack hlen rfl hsrc hpos hn hp hu hp2 hdis hdis2 hbytes
    obtain ⟨t, hut, hcfg, hht, hbt, hout⟩ := performCommand_unpack (decode_eq_ok_iff.mpr hunpack) hh
      ⟨rfl, hpos, hn, hu, hp, hdis.symm, hbytes⟩
    have hsrc_bits : ∀ k < lu.len.toNat, t.data.byteAt (lu.a.toNat + k) = some 0x00#8 ∨
        t.data.byteAt (lu.a.toNat + k) = some 0x01#8 := fun k hk => by
      obtain ⟨v, -, hv⟩ := hbt k hk
      rw [hv]
      cases v.getLsbD (k % 8)
      · exact .inl rfl
      · exact .inr rfl
    have hready : PackReady (t.pending lp) lp := by
      rw [PackReady, hlen, hsrc]
      exact ⟨rfl, hpos, hn, hcfg ▸ hp2, hcfg ▸ hu, hdis2, hsrc_bits⟩
    obtain ⟨r, hpr, -, hhr, hbr, hout2⟩ := performCommand_pack (decode_eq_ok_iff.mpr hpack) hht hready
    rw [hlen] at hbr hout2
    rw [hsrc] at hbr
    refine ⟨r, performCommands_pair hut hpr, hhr, fun i hi => ?_⟩
    calc r.data.byteAt (lp.a.toNat + i)
        = t.data.byteAt (lu.b.toNat + i) := hbt.packed_eq hbr (fun k hk => hout2 _ (by omega)) i hi
      _ = s.data.byteAt (lu.b.toNat + i) := hout _ (by omega)

end Sys2Proof.Machine
end

section
/-! PROOFS. The rotated value of 41_rotate.md R71 as a number: its bits, its chunks, its iterates, its fixed points
and its number of ones. -/

namespace Sys2Proof.Machine

variable {n v p : Nat}

/-! Its bits: bit 0 was the top bit, and every other bit was one place lower. -/

theorem testBit_rotl1_zero (hv : v < 2 ^ n) (hn : 0 < n) : (rotl1 n v).testBit 0 = v.testBit (n - 1) := by
  rw [testBit_rotl1 hv hn, Nat.zero_add, Nat.mod_eq_of_lt (by omega)]

theorem testBit_rotl1_succ (hv : v < 2 ^ n) (hp : p + 1 < n) : (rotl1 n v).testBit (p + 1) = v.testBit p := by
  rw [testBit_rotl1 hv hp, show p + 1 + n - 1 = p + n by omega, Nat.add_mod_right, Nat.mod_eq_of_lt (by omega)]

/-- Every bit moves one position up, cyclically (41_rotate.md R71). -/
theorem testBit_rotl1_succ_mod (hv : v < 2 ^ n) (hp : p < n) :
    (rotl1 n v).testBit ((p + 1) % n) = v.testBit p := by
  obtain h | rfl : p + 1 < n ∨ n = p + 1 := by omega
  · rw [Nat.mod_eq_of_lt h, testBit_rotl1_succ hv h]
  · rw [Nat.mod_self, testBit_rotl1_zero hv p.succ_pos, Nat.add_sub_cancel]

/-- Two numbers of `n` bits are equal when their bits agree. -/
theorem eq_of_testBit_below {v w : Nat} (hv : v < 2 ^ n) (hw : w < 2 ^ n)
    (h : ∀ p < n, v.testBit p = w.testBit p) : v = w := by
  refine Nat.eq_of_testBit_eq fun p => ?_
  obtain hp | hp := lt_or_ge p n
  · exact h p hp
  · have hle : 2 ^ n ≤ 2 ^ p := Nat.pow_le_pow_right (by omega) hp
    rw [Nat.testBit_eq_false_of_lt (hv.trans_le hle), Nat.testBit_eq_false_of_lt (hw.trans_le hle)]

/-! Its chunks: the word, byte and lane forms of R72, R73 and R74 at once. -/

/-- The bit before the lowest bit of chunk `j` is the top bit of the chunk before it, cyclically. -/
theorem prev_chunk_top {w c j : Nat} (hw : 0 < w) (hj : j < c) :
    (w * ((j + c - 1) % c) + (w - 1) + 1) % (w * c) = w * j := by
  rw [Nat.add_assoc, Nat.sub_add_cancel hw, ← Nat.mul_succ, Nat.mul_mod_mul_left, Nat.succ_eq_add_one,
    Nat.mod_add_mod, show j + c - 1 + 1 = j + c by omega, Nat.add_mod_right, Nat.mod_eq_of_lt hj]

/-- Each chunk of `w` bits is shifted left by one, and the top bit of the chunk before it (cyclically) comes in
below. -/
theorem rotl1_chunk {w c j : Nat} (hw : 0 < w) (hv : v < 2 ^ (w * c)) (hj : j < c) :
    rotl1 (w * c) v / 2 ^ (w * j) % 2 ^ w =
      ((v / 2 ^ (w * j) % 2 ^ w) <<< 1) % 2 ^ w ||| (v / 2 ^ (w * ((j + c - 1) % c)) % 2 ^ w) >>> (w - 1) := by
  have hfit : ∀ i < c, w * i + w ≤ w * c := fun i hi => Nat.mul_le_mul_left w hi
  have hjc := hfit j hj
  have hlow : (rotl1 (w * c) v).testBit (w * j) = v.testBit (w * ((j + c - 1) % c) + (w - 1)) := by
    have hprev := hfit ((j + c - 1) % c) (Nat.mod_lt _ (by omega))
    rw [← testBit_rotl1_succ_mod hv (by omega), prev_chunk_top hw hj]
  refine Nat.eq_of_testBit_eq fun q => ?_
  simp only [Nat.testBit_or, Nat.testBit_mod_two_pow, Nat.testBit_div_two_pow, Nat.testBit_shiftLeft,
    Nat.testBit_shiftRight]
  obtain hq | hq := Nat.lt_or_ge q w
  · cases q with
    | zero =>
      rw [Nat.zero_add, hlow]
      simp [hw, Nat.add_comm]
    | succ q =>
      rw [show q + 1 + w * j = q + w * j + 1 by omega, testBit_rotl1_succ hv (by omega)]
      simp [hq, show q < w by omega, show ¬ w - 1 + (q + 1) < w by omega]
  · simp [show ¬ q < w by omega, show ¬ w - 1 + q < w by omega]

/-! Its iterates (41_rotate.md R85, R86). -/

theorem rotl1_iterate_lt (hv : v < 2 ^ n) (k : Nat) : (rotl1 n)^[k] v < 2 ^ n := by
  cases k with
  | zero => exact hv
  | succ k => rw [Function.iterate_succ_apply']; exact rotl1_lt _ _

theorem testBit_rotl1_iterate (hv : v < 2 ^ n) (hp : p < n) (k : Nat) :
    ((rotl1 n)^[k] v).testBit ((p + k) % n) = v.testBit p := by
  induction k with
  | zero => rw [Nat.add_zero, Nat.mod_eq_of_lt hp, Function.iterate_zero_apply]
  | succ k ih =>
    rw [Function.iterate_succ_apply', ← Nat.add_assoc, Nat.add_mod_eq_add_mod_right 1 (Nat.mod_mod (p + k) n).symm,
      testBit_rotl1_succ_mod (rotl1_iterate_lt hv k) (Nat.mod_lt _ (by omega)), ih]

/-- `n` rotations of `n` bits are the identity. -/
theorem rotl1_iterate_self (hv : v < 2 ^ n) : (rotl1 n)^[n] v = v := by
  refine eq_of_testBit_below (rotl1_iterate_lt hv n) hv fun p hp => ?_
  rw [← testBit_rotl1_iterate hv hp n, Nat.add_mod_right, Nat.mod_eq_of_lt hp]

theorem rotl1_two_pow (hp : p < n) : rotl1 n (2 ^ p) = 2 ^ ((p + 1) % n) := by
  obtain h | rfl : p + 1 < n ∨ n = p + 1 := by omega
  · rw [rotl1, Nat.mod_eq_of_lt h, Nat.shiftRight_eq_div_pow,
      Nat.div_eq_of_lt (Nat.pow_lt_pow_right (by omega) (by omega)), Nat.or_zero, Nat.shiftLeft_eq, pow_one,
      ← pow_succ, Nat.mod_eq_of_lt (Nat.pow_lt_pow_right (by omega) h)]
  · rw [rotl1, Nat.mod_self, Nat.add_sub_cancel, Nat.shiftRight_eq_div_pow, Nat.div_self (Nat.two_pow_pos p),
      Nat.or_mod_two_pow, Nat.shiftLeft_eq, pow_one, ← pow_succ, Nat.mod_self, Nat.zero_or, pow_zero,
      Nat.mod_eq_of_lt (Nat.one_lt_two_pow (by omega))]

theorem rotl1_iterate_two_pow (hp : p < n) (k : Nat) : (rotl1 n)^[k] (2 ^ p) = 2 ^ ((p + k) % n) := by
  induction k with
  | zero => rw [Nat.add_zero, Nat.mod_eq_of_lt hp, Function.iterate_zero_apply]
  | succ k ih =>
    rw [Function.iterate_succ_apply', ih, rotl1_two_pow (Nat.mod_lt _ (by omega)), Nat.mod_add_mod, Nat.add_assoc]

/-! Its fixed points (41_rotate.md R87). -/

/-- Where the rotation changes nothing, every bit is equal to bit 0. -/
theorem testBit_eq_zero_of_rotl1_eq_self (hv : v < 2 ^ n) (h : rotl1 n v = v) (hp : p < n) :
    v.testBit p = v.testBit 0 := by
  induction p with
  | zero => rfl
  | succ p ih => rw [← ih (by omega), ← testBit_rotl1_succ hv hp, h]

theorem rotl1_eq_self_iff (hv : v < 2 ^ n) : rotl1 n v = v ↔ v = 0 ∨ v = 2 ^ n - 1 := by
  have hones : 2 ^ n - 1 < 2 ^ n := Nat.sub_lt (Nat.two_pow_pos n) (by omega)
  constructor
  · intro h
    cases h0 : v.testBit 0 with
    | false =>
      refine .inl (eq_of_testBit_below hv (Nat.two_pow_pos n) fun p hp => ?_)
      rw [testBit_eq_zero_of_rotl1_eq_self hv h hp, h0, Nat.zero_testBit]
    | true =>
      refine .inr (eq_of_testBit_below hv hones fun p hp => ?_)
      rw [testBit_eq_zero_of_rotl1_eq_self hv h hp, h0, Nat.testBit_two_pow_sub_one, decide_eq_true hp]
  · rintro (rfl | rfl)
    · simp [rotl1]
    · refine eq_of_testBit_below (rotl1_lt _ _) hv fun p hp => ?_
      rw [testBit_rotl1 hv hp, Nat.testBit_two_pow_sub_one, Nat.testBit_two_pow_sub_one, decide_eq_true hp,
        decide_eq_true (Nat.mod_lt _ (by omega))]

/-! Its number of ones (41_rotate.md R88). -/

theorem onesCount_eq_countP (n v : Nat) : onesCount n v = (List.range n).countP v.testBit :=
  List.countP_eq_length_filter.symm

/-- The rotated value counts the top bit first, where the value counts it last. -/
theorem onesCount_rotl1 (hv : v < 2 ^ n) : onesCount n (rotl1 n v) = onesCount n v := by
  cases n with
  | zero => rfl
  | succ m =>
    have hlow : ∀ p ∈ List.range m, (rotl1 (m + 1) v).testBit (p + 1) = true ↔ v.testBit p = true := fun p hp => by
      rw [testBit_rotl1_succ hv (by simpa using hp)]
    calc onesCount (m + 1) (rotl1 (m + 1) v)
        = (List.range m).countP v.testBit + if v.testBit m then 1 else 0 := by
          rw [onesCount_eq_countP, List.range_succ_eq_map, List.countP_cons, List.countP_map,
            testBit_rotl1_zero hv (by omega), Nat.add_sub_cancel]
          exact congrArg (· + _) (List.countP_congr hlow)
      _ = onesCount (m + 1) v := by
          rw [onesCount_eq_countP, List.range_succ, List.countP_append, List.countP_singleton]

end Sys2Proof.Machine
end

section
/-! PROOFS. The value of a range of DATA by its bytes and by its chunks (20_memory.md R39, R40), and where a chunk of
a rotated array gets its low bit from (41_rotate.md R72, R73, R74). -/

namespace Sys2Proof.Machine

variable {m m' : Memory} {a n v : Nat}

theorem memValue_eq_some_iff_byteAt :
    memValue m a n = some v ↔
      v < 2 ^ (8 * n) ∧ ∀ k < n, m.byteAt (a + k) = some (BitVec.ofNat 8 (v / 2 ^ (8 * k))) := by
  rw [memValue_eq_some_iff]
  constructor
  · rintro ⟨vs, hvs, rfl⟩
    obtain ⟨rfl, hbyte⟩ := Memory.readBytes_eq_ok.mp hvs
    exact ⟨leValue_lt vs, fun k hk => (hbyte k hk).trans (getElem?_eq_leValue_div hk)⟩
  · rintro ⟨hv, hbyte⟩
    refine ⟨leBytes n v, Memory.readBytes_eq_ok.mpr ⟨length_leBytes n v, fun k hk => ?_⟩, ?_⟩
    · rw [hbyte k hk, getElem?_leBytes v hk, show 256 = 2 ^ 8 from rfl, ← pow_mul]
    · rw [leValue_leBytes, show 256 = 2 ^ 8 from rfl, ← pow_mul, Nat.mod_eq_of_lt hv]

theorem memValue_lt (h : memValue m a n = some v) : v < 2 ^ (8 * n) := by
  obtain ⟨hv, -⟩ := memValue_eq_some_iff_byteAt.mp h
  exact hv

/-- The value of the bytes of a packed array of `n` bits has `n` bits. -/
theorem memValue_lt_two_pow (hn : n % 8 = 0) (h : memValue m a (n / 8) = some v) : v < 2 ^ n := by
  have hlt := memValue_lt h
  rwa [show 8 * (n / 8) = n by omega] at hlt

/-- Two ranges hold the same bytes exactly when they have the same value. -/
theorem byteAt_eq_iff_memValue (h : memValue m a n = some v) :
    (∀ k < n, m'.byteAt (a + k) = m.byteAt (a + k)) ↔ memValue m' a n = some v := by
  obtain ⟨hv, hbyte⟩ := memValue_eq_some_iff_byteAt.mp h
  rw [memValue_eq_some_iff_byteAt, and_iff_right hv]
  exact forall₂_congr fun k hk => by rw [hbyte k hk]

theorem memValue_one (m : Memory) (x : Nat) : memValue m x 1 = (m.byteAt x).map BitVec.toNat := by
  cases h : m.byteAt x <;> simp [memValue, Memory.readBytes, leValue, h]

theorem memValue_zero_iff : memValue m a n = some 0 ↔ ∀ k < n, m.byteAt (a + k) = some 0x00#8 := by
  simp [memValue_eq_some_iff_byteAt]

theorem memValue_ones_iff :
    memValue m a n = some (2 ^ (8 * n) - 1) ↔ ∀ k < n, m.byteAt (a + k) = some 0xFF#8 := by
  have hbyte : ∀ k < n, BitVec.ofNat 8 ((2 ^ (8 * n) - 1) / 2 ^ (8 * k)) = 0xFF#8 := fun k hk => by
    refine BitVec.eq_of_getLsbD_eq fun q hq => ?_
    have hones : ∀ q < 8, (0xFF#8).getLsbD q = true := by decide
    simp only [BitVec.getLsbD_ofNat, Nat.testBit_div_two_pow, Nat.testBit_two_pow_sub_one, hones q hq, hq,
      decide_true, Bool.true_and, decide_eq_true_eq]
    omega
  rw [memValue_eq_some_iff_byteAt, and_iff_right (Nat.sub_lt (Nat.two_pow_pos _) (by omega))]
  exact forall₂_congr fun k hk => by rw [hbyte k hk]

/-- A range inside a range holds its bits of the value. -/
theorem memValue_slice {d b : Nat} (h : memValue m a n = some v) (hd : d + b ≤ n) :
    memValue m (a + d) b = some (v / 2 ^ (8 * d) % 2 ^ (8 * b)) := by
  obtain ⟨-, hbyte⟩ := memValue_eq_some_iff_byteAt.mp h
  refine memValue_eq_some_iff_byteAt.mpr ⟨Nat.mod_lt _ (Nat.two_pow_pos _), fun k hk => ?_⟩
  rw [Nat.add_assoc, hbyte (d + k) (by omega)]
  refine congrArg some (BitVec.eq_of_getLsbD_eq fun q hq => ?_)
  simp only [BitVec.getLsbD_ofNat, Nat.testBit_div_two_pow, Nat.testBit_mod_two_pow,
    decide_eq_true (show q + 8 * k < 8 * b by omega), Bool.true_and]
  congr 2
  omega

/-- The array of `n` bits at `a` in `m'` is the one in `m`, rotated (41_rotate.md R71). -/
def RotatesArray (m m' : Memory) (a n : Nat) : Prop :=
  ∃ v, memValue m a (n / 8) = some v ∧ memValue m' a (n / 8) = some (rotl1 n v)

/-- The chunk form of a rotation, for chunks of `b` bytes. -/
theorem RotatesArray.chunk {b j : Nat} (h : RotatesArray m m' a n) (hb : 0 < b) (hn : 8 * b * (n / (8 * b)) = n)
    (hj : j < n / (8 * b)) :
    ∃ w c, memValue m (a + b * j) b = some w ∧
      memValue m (a + b * ((j + n / (8 * b) - 1) % (n / (8 * b)))) b = some c ∧
      memValue m' (a + b * j) b = some ((w <<< 1) % 2 ^ (8 * b) ||| (c >>> (8 * b - 1))) := by
  obtain ⟨v, hv, hv'⟩ := h
  generalize n / (8 * b) = count at hn hj ⊢
  obtain rfl : 8 * b * count = n := hn
  have hbytes : 8 * b * count / 8 = b * count := by rw [Nat.mul_assoc, Nat.mul_div_cancel_left _ (by omega)]
  rw [hbytes] at hv hv'
  have hfit : ∀ i < count, b * i + b ≤ b * count := fun i hi => Nat.mul_le_mul_left b hi
  refine ⟨_, _, memValue_slice hv (hfit j hj), memValue_slice hv (hfit _ (Nat.mod_lt _ (by omega))), ?_⟩
  rw [memValue_slice hv' (hfit j hj), ← Nat.mul_assoc, ← Nat.mul_assoc,
    rotl1_chunk (by omega) (by simpa [Nat.mul_assoc] using memValue_lt hv) hj]

/-- The byte form of a rotation (R73) is the chunk form for chunks of one byte. -/
theorem RotatesArray.byte {k : Nat} (h : RotatesArray m m' a n) (hn : n % 8 = 0) (hk : k < n / 8) :
    ∃ x y : Byte, m.byteAt (a + k) = some x ∧ m.byteAt (a + (k + n / 8 - 1) % (n / 8)) = some y ∧
      m'.byteAt (a + k) = some ((x <<< 1) ||| (y >>> 7)) := by
  obtain ⟨w, c, hw, hc, hr⟩ := h.chunk (b := 1) (j := k) (by omega) (by omega) (by omega)
  simp only [memValue_one, Nat.one_mul, Nat.mul_one, Option.map_eq_some_iff] at hw hc hr
  obtain ⟨x, hx, rfl⟩ := hw
  obtain ⟨y, hy, rfl⟩ := hc
  obtain ⟨z, hz, hzv⟩ := hr
  refine ⟨x, y, hx, hy, hz.trans (congrArg some (BitVec.eq_of_toNat_eq ?_))⟩
  rw [hzv, BitVec.toNat_or, BitVec.toNat_shiftLeft, BitVec.toNat_ushiftRight]

end Sys2Proof.Machine
end

section
/-! PROOFS. What the shared body of the three rotations answers (41_rotate.md R79), and what a sequence of rotations
of one array does (60_exceptions.md R103). -/

namespace Sys2Proof.Machine

variable {s t : State} {l : Latched} {var : Variant} {i : Instr} {a n v : Nat}

/-! The three commands and their one body. -/

theorem exec_instr (var : Variant) (s : State) : exec var.instr s = rotl1Body var s := by cases var <;> rfl

theorem exists_variant_of_mem_rotations (h : i ∈ rotations) : ∃ var : Variant, var.instr = i := by
  cases i with
  | rotl1S => exact ⟨.scalar, rfl⟩
  | rotl1V128 => exact ⟨.v128, rfl⟩
  | rotl1V256 => exact ⟨.v256, rfl⟩
  | pack | unpack | equal => exact absurd h (by decide)

/-- A statement about each of the three rotation commands is one about their body (R78, R79). -/
theorem forall_rotations_iff {P : Instr → Prop} : (∀ i ∈ rotations, P i) ↔ ∀ var : Variant, P var.instr :=
  ⟨fun h var => h _ (Variant.instr_mem_rotations var), fun h i hi => by
    obtain ⟨var, rfl⟩ := exists_variant_of_mem_rotations hi
    exact h var⟩

theorem framesOk_frames_iff : framesOk l.frames = true ↔ l.nframes = 1 := by
  rw [framesOk_iff, Latched.frames, ← BitVec.toNat_inj]
  rfl

theorem rotateLengthOk_bits_iff :
    rotateLengthOk l.bits = true ↔ l.len.toNat ∈ Config.supportedN :=
  rotateLengthOk_iff l.bits

/-! Check by check, in the order of the body. -/

theorem rotl1Body_of_nframes_ne (hl : s.latch = some l) (hf : l.nframes ≠ 1) :
    rotl1Body var s = .next (afterError s 2) := by
  rw [rotl1Body, withLatched_some hl]
  simp [mt framesOk_frames_iff.mp hf, raise_eq_afterError, errorCode]

theorem rotl1Body_of_unsupported (hl : s.latch = some l) (hf : l.nframes = 1)
    (hn : l.len.toNat ∉ Config.supportedN) :
    rotl1Body var s =
      if var = .scalar ∧ s.cfg.scalarUnsupportedNoop = true then .next s.complete else .next (afterError s 2) := by
  rw [rotl1Body, withLatched_some hl]
  simp [framesOk_frames_iff.mpr hf, mt rotateLengthOk_bits_iff.mp hn, raise_eq_afterError, errorCode]

theorem rotl1Body_of_supported (hl : s.latch = some l) (hf : l.nframes = 1)
    (hn : l.len.toNat ∈ Config.supportedN) :
    rotl1Body var s =
      if Span.inMem s.cfg ⟨l.addrA, l.packedLen⟩ then
        readSpan var.instr s ⟨l.addrA, l.packedLen⟩ fun vs =>
          .next (s.store l.addrA (leBytes l.packedLen (rotl1 l.bits (leValue vs)))).complete
      else .next (s.raise .addressRange) := by
  rw [rotl1Body, withLatched_some hl]
  cases h : Span.inMem s.cfg ⟨l.addrA, l.packedLen⟩ <;>
    simp [framesOk_frames_iff.mpr hf, rotateLengthOk_bits_iff.mpr hn, h]

/-- Only the scalar no-op tells the variants apart (41_rotate.md R78, R84). -/
theorem rotl1Body_variant (var' : Variant) (hl : s.latch = some l)
    (hn : l.len.toNat ∈ Config.supportedN ∨ s.cfg.scalarUnsupportedNoop = false)
    (h : rotl1Body var s = .next t) : rotl1Body var' s = .next t := by
  by_cases hf : l.nframes = 1
  · by_cases hlen : l.len.toNat ∈ Config.supportedN
    · rw [rotl1Body_of_supported hl hf hlen] at h ⊢
      split at h
      · obtain ⟨vs, hvs, h⟩ := readSpan_next h
        rw [if_pos ‹_›, readSpan_ok hvs, h]
      · rw [if_neg ‹_›, h]
    · have hnoop := hn.resolve_left hlen
      simp only [rotl1Body_of_unsupported hl hf hlen, hnoop, Bool.false_eq_true, and_false, if_false] at h ⊢
      exact h
  · rw [rotl1Body_of_nframes_ne hl hf] at h ⊢
    exact h

/-! A rotation that is ready. -/

theorem supported_mod_eight : ∀ n ∈ Config.supportedN, n % 8 = 0 := by decide

theorem RotateReady.supported (h : RotateReady s l) (hn : l.len.toNat = n) :
    n ∈ Config.supportedN := by
  obtain ⟨-, -, hlen, -⟩ := h
  exact hn ▸ hlen

theorem RotateReady.mod_eight (h : RotateReady s l) (hn : l.len.toNat = n) : n % 8 = 0 :=
  supported_mod_eight n (h.supported hn)

theorem completed_store_complete (s : State) (x : Nat) (vs : List Byte) : Completed s (s.store x vs).complete :=
  ⟨⟨rfl, rfl, rfl, rfl, rfl⟩, ⟨rfl, rfl, rfl⟩, rfl, setStatusBit_busy_false s.status⟩

/-- A rotation that is ready completes, rotates its array and changes nothing else (41_rotate.md R79). -/
theorem exec_rotation_of_ready (hr : RotateReady s l) (hn : l.len.toNat = n) (ha : l.a.toNat = a) :
    ∃ t, exec var.instr s = .next t ∧ RotatesArray s.data t.data a n ∧ SameOutside s t a (n / 8) ∧
      Completed s t := by
  subst hn ha
  obtain ⟨hl, hf, hlen, hm, hbytes⟩ := hr
  obtain ⟨vs, hvs⟩ := exists_readBytes hbytes
  have hn8 : 8 * (l.len.toNat / 8) = l.len.toNat := by have := supported_mod_eight _ hlen; omega
  have hnew : leValue (leBytes l.packedLen (rotl1 l.bits (leValue vs))) = rotl1 l.bits (leValue vs) := by
    rw [leValue_leBytes, Latched.packedLen, Latched.bits, show 256 = 2 ^ 8 from rfl, ← pow_mul, hn8,
      Nat.mod_eq_of_lt (rotl1_lt _ _)]
  refine ⟨(s.store l.addrA (leBytes l.packedLen (rotl1 l.bits (leValue vs)))).complete, ?_, ⟨leValue vs, ?_, ?_⟩,
    fun x hx => ?_, completed_store_complete s _ _⟩
  · rw [exec_instr, rotl1Body_of_supported hl hf hlen, if_pos ((Span.inMem_iff _ _).mpr hm), readSpan_ok hvs]
  · exact memValue_eq_some_iff.mpr ⟨vs, hvs, rfl⟩
  · refine memValue_eq_some_iff.mpr ⟨_, Memory.readBytes_eq_ok.mpr ⟨length_leBytes _ _, fun k hk => ?_⟩, hnew⟩
    exact Memory.byteAt_writeBytes_inside (by rwa [length_leBytes])
  · exact Memory.byteAt_writeBytes_outside (by rwa [length_leBytes])

/-! Sequences of rotations of one array. -/

theorem decode_of_isRotation (h : IsRotation l a n) : ∃ var : Variant, decode l.cmd = .ok var.instr := by
  obtain ⟨hcmd, -⟩ := h
  have hall : ∀ w ∈ [0x00000003#32, 0x00000013#32, 0x00000023#32], ∃ var : Variant, decode w = .ok var.instr := by
    simp only [List.forall_mem_cons]
    exact ⟨⟨.scalar, by decide⟩, ⟨.v128, by decide⟩, ⟨.v256, by decide⟩, by simp⟩
  exact hall _ hcmd

/-- The array of `n` bits at `a` lies in DATA, has a supported length and holds `v`, and the unit is not halted:
what a rotation of it needs, and what it keeps. -/
structure HoldsArray (s : State) (a n v : Nat) : Prop where
  not_halted : s.halt = false
  supported : n ∈ Config.supportedN
  in_mem : a + n / 8 ≤ s.cfg.memSize
  value : memValue s.data a (n / 8) = some v

theorem HoldsArray.value_lt (h : HoldsArray s a n v) : v < 2 ^ n :=
  memValue_lt_two_pow (supported_mod_eight n h.supported) h.value

theorem HoldsArray.rotateReady (h : HoldsArray s a n v) (hr : IsRotation l a n) :
    RotateReady (s.pending l) l := by
  obtain ⟨-, hf, rfl, rfl⟩ := hr
  refine ⟨rfl, hf, h.supported, h.in_mem, fun k hk => ?_⟩
  obtain ⟨-, hbyte⟩ := memValue_eq_some_iff_byteAt.mp h.value
  exact Option.isSome_of_eq_some (hbyte k hk)

/-- One rotation, latched and performed: its array is rotated and every other byte stays. -/
theorem performCommand_rotation (h : HoldsArray s a n v) (hr : IsRotation l a n) :
    ∃ t, performCommand l s = .next t ∧ HoldsArray t a n (rotl1 n v) ∧ SameOutside s t a (n / 8) := by
  obtain ⟨var, hd⟩ := decode_of_isRotation hr
  have hready := h.rotateReady hr
  obtain ⟨-, -, ha, hn⟩ := hr
  obtain ⟨t, he, ⟨w, hw, hw'⟩, hout, ⟨hcfg, -⟩, -, -, hstatus⟩ :=
    exec_rotation_of_ready (var := var) hready hn ha
  have hht : t.halt = false := by
    have hh := (State.pending_halt s l).trans h.not_halted
    simpa [State.halt, hstatus] using hh
  obtain rfl : v = w := Option.some.inj (h.value.symm.trans hw)
  exact ⟨t, (perform_of_decode rfl hd).trans he, ⟨hht, h.supported, hcfg ▸ h.in_mem, hw'⟩, hout⟩

/-- A sequence of rotations of one array completes, and the array's value is rotated once for each. -/
theorem performCommands_rotations (ls : List Latched) (h : HoldsArray s a n v)
    (hls : ∀ l ∈ ls, IsRotation l a n) :
    ∃ t, performCommands ls s = .next t ∧ HoldsArray t a n ((rotl1 n)^[ls.length] v) := by
  induction ls generalizing s v with
  | nil => exact ⟨s, rfl, h⟩
  | cons l ls ih =>
    obtain ⟨hl, hls⟩ := List.forall_mem_cons.mp hls
    obtain ⟨t, ht, hta, -⟩ := performCommand_rotation h hl
    obtain ⟨r, hr, hra⟩ := ih hta hls
    exact ⟨r, by rw [performCommands, ht]; exact hr, hra⟩

end Sys2Proof.Machine
end

section
/-! PROOFS. The statements of 41_rotate.md. -/

namespace Sys2Proof.Machine

/-- Settles O7: the byte form is `RotatesArray.byte`, the frame is `exec_rotation_of_ready`'s. -/
theorem rotationsComplete : Obligations.RotationsComplete := by
  refine forall_rotations_iff.mpr fun var s l n a hr hn ha => ?_
  obtain ⟨t, he, hrot, hout, hc⟩ := exec_rotation_of_ready (var := var) hr hn ha
  have hn8 := hr.mod_eight hn
  exact ⟨t, he, fun k hk => hrot.byte hn8 hk, hout, hc⟩

/-- Settles O9: the body's first two checks, each with its own equation. -/
theorem unsupportedRotationsRaiseOrDoNothing : Obligations.UnsupportedRotationsRaiseOrDoNothing := by
  refine ⟨forall_rotations_iff.mpr fun var s l hl hf => ?_,
    forall_rotations_iff.mpr fun var s l hl hf hn hno => ?_, fun s l hl hf hn hno => ?_, rfl⟩
  · rw [exec_instr, rotl1Body_of_nframes_ne hl hf]
  · have hvar : ¬ (var = .scalar ∧ s.cfg.scalarUnsupportedNoop = true) := by
      rintro ⟨rfl, hnoop⟩
      obtain h | h := hno
      · exact h rfl
      · simp [h] at hnoop
    rw [exec_instr, rotl1Body_of_unsupported hl hf hn, if_neg hvar]
  · rw [← setStatusBit_busy_false]
    exact (rotl1Body_of_unsupported (var := .scalar) hl hf hn).trans (if_pos ⟨rfl, hno⟩)

/-- Settles O14: `RotatesArray` is R71's formula, and `testBit_rotl1` its bit form. -/
theorem rotationRotatesTheWholeValue : Obligations.RotationRotatesTheWholeValue := by
  refine forall_rotations_iff.mpr fun var s l n a hr hn ha => ?_
  obtain ⟨t, he, ⟨v, hv, hv'⟩, -⟩ := exec_rotation_of_ready (var := var) hr hn ha
  have hn8 := hr.mod_eight hn
  have hlt := memValue_lt_two_pow hn8 hv
  exact ⟨t, v, he, hv, hv', fun p hp => testBit_rotl1 hlt hp⟩

/-- Settles O15: the chunk form with chunks of 8 bytes, and with the one chunk of 4 bytes. -/
theorem rotationCarriesBetweenWords : Obligations.RotationCarriesBetweenWords := by
  refine forall_rotations_iff.mpr fun var s l n a hr hn ha => ?_
  obtain ⟨t, he, hrot, -⟩ := exec_rotation_of_ready (var := var) hr hn ha
  have hwhole : ∀ n ∈ Config.supportedN, 64 ≤ n → 64 * (n / 64) = n := by decide
  refine ⟨t, he, fun h64 j hj => ?_, ?_⟩
  · exact hrot.chunk (b := 8) (by omega) (hwhole n (hr.supported hn) h64) hj
  · rintro rfl
    obtain ⟨w, c, hw, hc, hr⟩ := hrot.chunk (b := 4) (j := 0) (by omega) (by omega) (by omega)
    obtain rfl : c = w := Option.some.inj (hc.symm.trans hw)
    exact ⟨c, hw, hr⟩

/-- Settles O16: the chunk form with chunks of 16 and of 32 bytes. -/
theorem rotationCarriesBetweenLanes : Obligations.RotationCarriesBetweenLanes := by
  refine forall_rotations_iff.mpr fun var w hw s l n a hr hn ha hwn => ?_
  obtain ⟨t, he, hrot, -⟩ := exec_rotation_of_ready (var := var) hr hn ha
  have hwhole : ∀ w ∈ [128, 256], ∀ n ∈ Config.supportedN, w ≤ n → w * (n / w) = n := by decide
  have hlane : ∀ w ∈ [128, 256], 8 * (w / 8) = w ∧ 0 < w / 8 := by decide
  obtain ⟨hw8, hpos⟩ := hlane w hw
  refine ⟨t, he, fun m hm => ?_⟩
  have hchunk := hrot.chunk (b := w / 8) (j := m) hpos
  rw [hw8] at hchunk
  exact hchunk (hwhole w hw n (hr.supported hn) hwn) hm

/-- Settles O17: the variants' bodies differ in the scalar no-op only, and each ready one rotates its array. -/
theorem variantsAgree : Obligations.VariantsAgree := by
  refine ⟨forall_rotations_iff.mpr fun var => forall_rotations_iff.mpr fun var' s t l hl hn h => ?_,
    forall_rotations_iff.mpr fun var s l hr => ?_⟩
  · rw [exec_instr] at h ⊢
    exact rotl1Body_variant var' hl hn h
  · obtain ⟨t, he, ⟨v, hv, hv'⟩, -⟩ := exec_rotation_of_ready (var := var) hr rfl rfl
    exact ⟨t, v, he, hv, hv'⟩

/-- Settles O18: `n` rotations are the identity on the array's value, and the value determines the bytes. -/
theorem rotationIsPeriodic : Obligations.RotationIsPeriodic := by
  intro s ls n a hh hn hm hbytes hlen hls
  obtain ⟨v, hv⟩ := exists_memValue hbytes
  have h : HoldsArray s a n v := ⟨hh, hn, hm, hv⟩
  obtain ⟨t, ht, hta⟩ := performCommands_rotations ls h hls
  rw [hlen, rotl1_iterate_self h.value_lt] at hta
  exact ⟨t, ht, hta.not_halted, (byteAt_eq_iff_memValue hv).mpr hta.value⟩

/-- Settles O19: k rotations of the value 2^p, by `rotl1_iterate_two_pow`. -/
theorem singleBitMovesOnePositionPerRotation : Obligations.SingleBitMovesOnePositionPerRotation := by
  intro s ls n a p hh hn hm hp hv hls
  obtain ⟨t, ht, hta⟩ := performCommands_rotations ls ⟨hh, hn, hm, hv⟩ hls
  rw [rotl1_iterate_two_pow hp] at hta
  exact ⟨t, ht, hta.not_halted, hta.value⟩

/-- Settles O20: bytes are unchanged when the value is, and the fixed points of `rotl1 n` are 0 and 2^n - 1. -/
theorem fixedPointsAreAllZerosAndAllOnes : Obligations.FixedPointsAreAllZerosAndAllOnes := by
  refine forall_rotations_iff.mpr fun var s l n a hr hn ha => ?_
  obtain ⟨t, he, ⟨v, hv, hv'⟩, -⟩ := exec_rotation_of_ready (var := var) hr hn ha
  have hn8 := hr.mod_eight hn
  refine ⟨t, he, ?_⟩
  rw [byteAt_eq_iff_memValue hv, ← memValue_zero_iff, ← memValue_ones_iff, show 8 * (n / 8) = n by omega, hv, hv']
  simpa using rotl1_eq_self_iff (memValue_lt_two_pow hn8 hv)

/-- Settles O21: `onesCount_rotl1` for the ones, and the byte form with both bytes `c` for equal bytes. -/
theorem rotationPreservesOnes : Obligations.RotationPreservesOnes := by
  refine forall_rotations_iff.mpr fun var s l n a hr hn ha => ?_
  obtain ⟨t, he, hrot, -⟩ := exec_rotation_of_ready (var := var) hr hn ha
  have hn8 := hr.mod_eight hn
  have hequal : ∀ c : Byte, (∀ k < n / 8, s.data.byteAt (a + k) = some c) →
      ∀ k < n / 8, t.data.byteAt (a + k) = some ((c <<< 1) ||| (c >>> 7)) := fun c hc k hk => by
    obtain ⟨x, y, hx, hy, hz⟩ := hrot.byte hn8 hk
    obtain rfl : x = c := Option.some.inj (hx.symm.trans (hc k hk))
    obtain rfl : y = x := Option.some.inj (hy.symm.trans (hc _ (Nat.mod_lt _ (by omega))))
    exact hz
  obtain ⟨v, hv, hv'⟩ := hrot
  have hlt := memValue_lt_two_pow hn8 hv
  exact ⟨t, v, rotl1 n v, he, hv, hv', onesCount_rotl1 hlt, hequal, hequal 0xAA#8⟩

end Sys2Proof.Machine
end

section
/-! PROOFS. EQUAL on two arrays of DATA by their values (42_compare.md R89), and a rotation of one of two disjoint
arrays. -/

namespace Sys2Proof.Machine

variable {m m' : Memory} {s t : State} {l : Latched} {a b n v w : Nat}

/-- An array is a copy of another, in whatever DATA and at whatever address each lies, exactly when it has the same
value. -/
theorem byteAt_copy_iff_memValue (h : memValue m a n = some v) :
    (∀ k < n, m'.byteAt (b + k) = m.byteAt (a + k)) ↔ memValue m' b n = some v := by
  obtain ⟨hv, hbyte⟩ := memValue_eq_some_iff_byteAt.mp h
  rw [memValue_eq_some_iff_byteAt, and_iff_right hv]
  exact forall₂_congr fun k hk => by rw [hbyte k hk]

theorem HoldsArray.isSome_byteAt (h : HoldsArray s a n v) : ∀ k < n / 8, (s.data.byteAt (a + k)).isSome := by
  obtain ⟨-, hbyte⟩ := memValue_eq_some_iff_byteAt.mp h.value
  exact fun k hk => Option.isSome_of_eq_some (hbyte k hk)

/-- An array that lies outside the written range is still there, when the unit is not halted. -/
theorem HoldsArray.of_sameOutside (h : HoldsArray s b n w) (ht : t.halt = false) (hcfg : t.cfg = s.cfg)
    (hout : SameOutside s t a (n / 8)) (hdis : a + n / 8 ≤ b ∨ b + n / 8 ≤ a) : HoldsArray t b n w :=
  ⟨ht, h.supported, hcfg ▸ h.in_mem, (byteAt_copy_iff_memValue h.value).mp fun k hk => hout (b + k) (by omega)⟩

/-- A rotation of one of two disjoint arrays rotates that one and keeps the other. -/
theorem performCommand_rotation_disjoint (ha : HoldsArray s a n v) (hb : HoldsArray s b n w)
    (hdis : a + n / 8 ≤ b ∨ b + n / 8 ≤ a) (hr : IsRotation l a n) :
    ∃ t, performCommand l s = .next t ∧ HoldsArray t a n (rotl1 n v) ∧ HoldsArray t b n w := by
  obtain ⟨t, ht, hta, hout⟩ := performCommand_rotation ha hr
  obtain ⟨hcfg, -⟩ := perform_frame ht
  exact ⟨t, ht, hta, hb.of_sameOutside hta.not_halted hcfg hout hdis⟩

theorem noCheckFails_of_equalReady (hd : decode l.cmd = .ok .equal) (h : EqualReady s l) : NoCheckFails s l := by
  obtain ⟨-, hpos, hn, ha, hb, hbytes⟩ := h
  exact (noCheckFails_equal_iff hd).mpr ⟨(byteLengthOk_iff _).mpr ⟨hpos.ne', hn⟩, (Span.inMem_iff _ _).mpr ha,
    (Span.inMem_iff _ _).mpr hb, exists_readBytes fun k hk => (hbytes k hk).1,
    exists_readBytes fun k hk => (hbytes k hk).2⟩

/-- EQUAL, performed where it is ready (R89): it completes, and EQ says whether every byte pair matches. -/
theorem performCommand_equal (hd : decode l.cmd = .ok .equal) (hh : s.halt = false)
    (hr : EqualReady (s.pending l) l) :
    ∃ t, performCommand l s = .next t ∧ t.halt = false ∧ (t.eqFlag = true ↔
      ∀ k < l.len.toNat / 8, s.data.byteAt (l.a.toNat + k) = s.data.byteAt (l.b.toNat + k)) := by
  obtain ⟨e, he⟩ := execEqual_of_noCheckFails rfl hd (noCheckFails_of_equalReady hd hr)
  have hp : performCommand l s = .next ((s.pending l).setEq e).complete := (perform_of_decode rfl hd).trans he
  have hht : ((s.pending l).setEq e).complete.halt = false := by simpa using hh
  exact ⟨_, hp, hht, perform_equal_eqFlag (s := s.pending l) hp hht rfl hd⟩

/-- EQUAL of two arrays of one value gives EQ = 1. -/
theorem performCommand_equal_of_holdsArray (ha : HoldsArray s a n v) (hb : HoldsArray s b n v)
    (hd : decode l.cmd = .ok .equal) (hn : l.len.toNat = n) (hla : l.a.toNat = a) (hlb : l.b.toNat = b) :
    ∃ t, performCommand l s = .next t ∧ t.halt = false ∧ t.eqFlag = true := by
  subst hn hla hlb
  have hlen : ∀ n ∈ Config.supportedN, 0 < n ∧ n % 8 = 0 := by decide
  obtain ⟨hpos, hn8⟩ := hlen _ ha.supported
  have hready : EqualReady (s.pending l) l := ⟨rfl, hpos, hn8, ha.in_mem, hb.in_mem,
    fun k hk => ⟨ha.isSome_byteAt k hk, hb.isSome_byteAt k hk⟩⟩
  obtain ⟨t, ht, hht, heq⟩ := performCommand_equal hd ha.not_halted hready
  exact ⟨t, ht, hht, heq.mpr ((byteAt_copy_iff_memValue hb.value).mpr ha.value)⟩

theorem performCommands_cons (h : performCommand l s = .next t) (ls : List Latched) :
    performCommands (l :: ls) s = performCommands ls t := by
  rw [performCommands, h]

end Sys2Proof.Machine
end

section
/-! PROOFS. The statement of 42_compare.md about the rotation variants. -/

namespace Sys2Proof.Machine

/-- Settles O22: each rotation rotates its own array and keeps the other, so both arrays hold `rotl1 n v` when EQUAL
reads them. -/
theorem variantsCompareEqual : Obligations.VariantsCompareEqual := by
  intro s lS lV lE n a b hh hn _ hrS _ hrV hE hlen hla hlb hma hmb hdis hbytes
  obtain ⟨v, hv⟩ := exists_memValue fun k hk => (hbytes k hk).1
  have hcopy : memValue s.data b (n / 8) = some v := (byteAt_copy_iff_memValue hv).mp fun k hk => (hbytes k hk).2
  obtain ⟨t₁, hS, ha₁, hb₁⟩ := performCommand_rotation_disjoint ⟨hh, hn, hma, hv⟩ ⟨hh, hn, hmb, hcopy⟩ hdis hrS
  obtain ⟨t₂, hV, hb₂, ha₂⟩ := performCommand_rotation_disjoint hb₁ ha₁ hdis.symm hrV
  obtain ⟨t, ht, hht, heq⟩ :=
    performCommand_equal_of_holdsArray ha₂ hb₂ (decode_eq_ok_iff.mpr hE) hlen hla hlb
  exact ⟨t, (performCommands_cons hS _).trans (performCommands_pair hV ht), hht, heq⟩

end Sys2Proof.Machine
end

section
/-! PROOFS. What a perform answers when a check of 60_exceptions.md R96 is the first that fails, check by check in the
order of the list, and when none fails. -/

namespace Sys2Proof.Machine

variable {s : State} {l : Latched} {i : Instr} {o : Result}

/-! The outcome of each check for a word that decodes to a command, error entry and completion as whole states, and the
commands that each check is about. -/

theorem checkOutcome_two (hd : decode l.cmd = .ok i) :
    checkOutcome s l 2 o ↔ o = .next (afterError s 2) := by simp only [checkOutcome, hd]

theorem checkOutcome_three (hd : decode l.cmd = .ok i) :
    checkOutcome s l 3 o ↔
      if i = .rotl1S ∧ s.cfg.scalarUnsupportedNoop = true then
        o = .next { s with status := s.status &&& 0xFFFFFFFE#32, latch := none }
      else if i ∈ rotations then o = .next (afterError s 2)
      else o = .next (afterError s 1) := by simp only [checkOutcome, hd]

theorem checkOutcome_four (hd : decode l.cmd = .ok i) :
    checkOutcome s l 4 o ↔ o = .next (afterError s 4) := by simp only [checkOutcome, hd]

theorem checkOutcome_five (hd : decode l.cmd = .ok i) :
    checkOutcome s l 5 o ↔ o = .next (afterError s 5) := by simp only [checkOutcome, hd]

theorem checkOutcome_six (hd : decode l.cmd = .ok i) :
    checkOutcome s l 6 o ↔ ∃ x, o = .fault (.uninit i x) ∧ (∃ r ∈ readSpans i l, r.has x = true) ∧
      s.data.byteAt x = none := by simp only [checkOutcome, hd]

theorem checkOutcome_seven (hd : decode l.cmd = .ok i) :
    checkOutcome s l 7 o ↔ o = .next (afterError s 6) := by simp only [checkOutcome, hd]

theorem complete_eq (s : State) :
    s.complete = { s with status := s.status &&& 0xFFFFFFFE#32, latch := none } := by
  simp only [State.complete, State.setBusy, State.unlatch, setStatusBit_busy_false]

theorem eq_next_afterError {e : ErrorKind} (h : o = .next (s.raise e)) :
    o = .next (afterError s (errorCode e).toNat) :=
  h.trans (congrArg Host.Outcome.next (raise_eq_afterError s e))

/-- The commands that are no rotations: the length rule of R91 is theirs. -/
theorem eq_of_notMem_rotations (hi : i ∉ rotations) : i = .pack ∨ i = .unpack ∨ i = .equal := by
  cases i with
  | pack => exact .inl rfl
  | unpack => exact .inr (.inl rfl)
  | equal => exact .inr (.inr rfl)
  | rotl1S | rotl1V128 | rotl1V256 => exact absurd (by decide) hi

theorem checkFails_two_iff_nframes (hd : decode l.cmd = .ok i) :
    checkFails s l 2 ↔ i ∈ rotations ∧ l.nframes ≠ 1 := by
  rw [checkFails_two hd, ne_eq, ne_eq, ← BitVec.toNat_inj]
  rfl

theorem nframes_eq_one (hd : decode l.cmd = .ok i) (hi : i ∈ rotations) (h2 : ¬ checkFails s l 2) :
    l.nframes = 1 := by
  by_contra hf
  exact h2 ((checkFails_two_iff_nframes hd).mpr ⟨hi, hf⟩)

/-! Check 3, the length. -/

theorem exec_of_not_byteLengthOk (hl : s.latch = some l) (hi : i ∉ rotations) (hlen : byteLengthOk l.bits = false) :
    exec i s = .next (s.raise .invalidLength) := by
  obtain rfl | rfl | rfl := eq_of_notMem_rotations hi
  · rw [exec, execPack, withLatched_some hl]
    simp [hlen]
  · rw [exec, execUnpack, withLatched_some hl]
    simp [hlen]
  · rw [exec, execEqual, withLatched_some hl]
    simp [hlen]

theorem checkOutcome_exec_three (hl : s.latch = some l) (hd : decode l.cmd = .ok i) (h2 : ¬ checkFails s l 2)
    (h3 : checkFails s l 3) : checkOutcome s l 3 (exec i s) := by
  rw [checkOutcome_three hd]
  by_cases hi : i ∈ rotations
  · have hf := nframes_eq_one hd hi h2
    rw [checkFails_three hd, if_pos hi] at h3
    obtain ⟨var, rfl⟩ := exists_variant_of_mem_rotations hi
    rw [exec_instr, rotl1Body_of_unsupported hl hf h3, ← complete_eq, if_pos hi]
    simp only [Variant.instr_eq_rotl1S_iff]
    split <;> rfl
  · have hlen := mt (not_checkFails_three_iff_byteLengthOk hd hi).mpr (not_not.mpr h3)
    have hS : ¬ (i = .rotl1S ∧ s.cfg.scalarUnsupportedNoop = true) := by
      rintro ⟨rfl, -⟩
      exact hi (by decide)
    rw [if_neg hS, if_neg hi]
    exact eq_next_afterError (exec_of_not_byteLengthOk hl hi (by simpa using hlen))

/-! Check 4, the ranges. -/

theorem exec_of_not_inMem (hl : s.latch = some l) (hi : i ∉ rotations) (hlen : byteLengthOk l.bits = true)
    (hm : ∃ r ∈ readSpans i l ++ writeSpans i l, r.inMem s.cfg = false) :
    exec i s = .next (s.raise .addressRange) := by
  obtain rfl | rfl | rfl := eq_of_notMem_rotations hi
  all_goals simp only [readSpans, writeSpans, List.cons_append, List.nil_append, List.append_nil,
    List.exists_mem_cons_iff, List.not_mem_nil, false_and, exists_false, or_false] at hm
  · rw [exec, execPack, withLatched_some hl]
    obtain h | h := hm <;> simp [hlen, h]
  · rw [exec, execUnpack, withLatched_some hl]
    obtain h | h := hm <;> simp [hlen, h]
  · rw [exec, execEqual, withLatched_some hl]
    obtain h | h := hm <;> simp [hlen, h]

theorem exec_of_checkFails_four (hl : s.latch = some l) (hd : decode l.cmd = .ok i) (h2 : ¬ checkFails s l 2)
    (h3 : ¬ checkFails s l 3) (h4 : checkFails s l 4) : exec i s = .next (afterError s 4) := by
  have hm : ∃ r ∈ readSpans i l ++ writeSpans i l, r.inMem s.cfg = false := by
    have h := mt (not_checkFails_four_iff hd).mpr (not_not.mpr h4)
    simpa only [not_forall, Bool.not_eq_true, exists_prop] using h
  apply eq_next_afterError (e := .addressRange)
  by_cases hi : i ∈ rotations
  · have hf := nframes_eq_one hd hi h2
    have hlen := rotateLengthOk_bits_iff.mp ((not_checkFails_three_iff_rotateLengthOk hd hi).mp h3)
    obtain ⟨var, rfl⟩ := exists_variant_of_mem_rotations hi
    have hout : Span.inMem s.cfg ⟨l.addrA, l.packedLen⟩ = false := by
      simpa [readSpans_rotation, writeSpans_rotation] using hm
    rw [exec_instr, rotl1Body_of_supported hl hf hlen, hout, if_neg Bool.false_ne_true]
  · exact exec_of_not_inMem hl hi ((not_checkFails_three_iff_byteLengthOk hd hi).mp h3) hm

/-! The bodies behind the checks on lengths and ranges. -/

theorem execPack_of_ranges (hl : s.latch = some l) (hd : decode l.cmd = .ok .pack) (h3 : ¬ checkFails s l 3)
    (h4 : ¬ checkFails s l 4) :
    execPack s =
      if Span.meets ⟨l.addrA, l.packedLen⟩ ⟨l.addrB, l.bits⟩ then .next (s.raise .overlap)
      else readSpan .pack s ⟨l.addrB, l.bits⟩ fun u =>
        if unpackedOk u = false then .next (s.raise .invalidData)
        else .next (s.store l.addrA (packBytes l.packedLen u)).complete := by
  have hlen := (not_checkFails_three_iff_byteLengthOk hd (by decide)).mp h3
  obtain ⟨hsrc, hdst⟩ :
      Span.inMem s.cfg ⟨l.addrB, l.bits⟩ = true ∧ Span.inMem s.cfg ⟨l.addrA, l.packedLen⟩ = true := by
    simpa [readSpans, writeSpans] using (not_checkFails_four_iff hd).mp h4
  rw [execPack, withLatched_some hl]
  simp [hlen, hsrc, hdst]

theorem execUnpack_of_ranges (hl : s.latch = some l) (hd : decode l.cmd = .ok .unpack) (h3 : ¬ checkFails s l 3)
    (h4 : ¬ checkFails s l 4) :
    execUnpack s =
      if Span.meets ⟨l.addrA, l.bits⟩ ⟨l.addrB, l.packedLen⟩ then .next (s.raise .overlap)
      else readSpan .unpack s ⟨l.addrB, l.packedLen⟩ fun p =>
        .next (s.store l.addrA (unpackBytes l.bits p)).complete := by
  have hlen := (not_checkFails_three_iff_byteLengthOk hd (by decide)).mp h3
  obtain ⟨hsrc, hdst⟩ :
      Span.inMem s.cfg ⟨l.addrB, l.packedLen⟩ = true ∧ Span.inMem s.cfg ⟨l.addrA, l.bits⟩ = true := by
    simpa [readSpans, writeSpans] using (not_checkFails_four_iff hd).mp h4
  rw [execUnpack, withLatched_some hl]
  simp [hlen, hsrc, hdst]

theorem execEqual_of_ranges (hl : s.latch = some l) (hd : decode l.cmd = .ok .equal) (h3 : ¬ checkFails s l 3)
    (h4 : ¬ checkFails s l 4) :
    execEqual s =
      readSpan .equal s ⟨l.addrA, l.packedLen⟩ fun xs =>
        readSpan .equal s ⟨l.addrB, l.packedLen⟩ fun ys => .next (s.setEq (equalFlag xs ys)).complete := by
  have hlen := (not_checkFails_three_iff_byteLengthOk hd (by decide)).mp h3
  obtain ⟨ha, hb⟩ :
      Span.inMem s.cfg ⟨l.addrA, l.packedLen⟩ = true ∧ Span.inMem s.cfg ⟨l.addrB, l.packedLen⟩ = true := by
    simpa [readSpans, writeSpans] using (not_checkFails_four_iff hd).mp h4
  rw [execEqual, withLatched_some hl]
  simp [hlen, ha, hb]

theorem rotl1Body_of_ranges {var : Variant} (hl : s.latch = some l) (hd : decode l.cmd = .ok var.instr)
    (h2 : ¬ checkFails s l 2) (h3 : ¬ checkFails s l 3) (h4 : ¬ checkFails s l 4) :
    rotl1Body var s = readSpan var.instr s ⟨l.addrA, l.packedLen⟩ fun vs =>
      .next (s.store l.addrA (leBytes l.packedLen (rotl1 l.bits (leValue vs)))).complete := by
  have hi := Variant.instr_mem_rotations var
  have hlen := rotateLengthOk_bits_iff.mp ((not_checkFails_three_iff_rotateLengthOk hd hi).mp h3)
  have hm : Span.inMem s.cfg ⟨l.addrA, l.packedLen⟩ = true := by
    simpa [readSpans_rotation, writeSpans_rotation] using (not_checkFails_four_iff hd).mp h4
  rw [rotl1Body_of_supported hl (nframes_eq_one hd hi h2) hlen, if_pos hm]

/-! Check 5, the overlap. -/

theorem exec_of_checkFails_five (hl : s.latch = some l) (hd : decode l.cmd = .ok i) (h3 : ¬ checkFails s l 3)
    (h4 : ¬ checkFails s l 4) (h5 : checkFails s l 5) : exec i s = .next (afterError s 5) := by
  obtain ⟨hi, -⟩ := (checkFails_five hd).mp h5
  apply eq_next_afterError (e := .overlap)
  obtain rfl | rfl : i = .pack ∨ i = .unpack := by simpa using hi
  · have hmeets := mt (not_checkFails_five_iff hd hi rfl rfl).mpr (not_not.mpr h5)
    rw [exec, execPack_of_ranges hl hd h3 h4, if_pos (by simpa using hmeets)]
  · have hmeets := mt (not_checkFails_five_iff hd hi rfl rfl).mpr (not_not.mpr h5)
    rw [exec, execUnpack_of_ranges hl hd h3 h4, if_pos (by simpa using hmeets)]

/-! Check 6: an UNWRITTEN byte that the command reads. -/

/-- A range with an UNWRITTEN byte is not read: the fault names one such byte (20_memory.md R46). -/
theorem readSpan_of_unwritten {r : Span} (h : ∃ x, r.has x = true ∧ s.data.byteAt x = none) (i : Instr)
    (body : List Byte → Result) :
    ∃ x, readSpan i s r body = .fault (.uninit i x) ∧ r.has x = true ∧ s.data.byteAt x = none := by
  cases hread : s.data.readBytes r.start r.len with
  | ok vs =>
    obtain ⟨x, hx, hb⟩ := h
    exact absurd hb ((exists_readBytes_iff _ r).mp ⟨vs, hread⟩ x hx)
  | error x =>
    obtain ⟨k, hk, hxk, hb, -⟩ := Memory.readBytes_eq_error.mp hread
    exact ⟨x, readSpan_error hread i body, (Span.has_iff r x).mpr (by omega), hb⟩

/-- A command that goes on to read its one range faults where check 6 fails. -/
theorem checkOutcome_six_of_readSpan {r : Span} {body : List Byte → Result} (hd : decode l.cmd = .ok i)
    (hr : readSpans i l = [r]) (h6 : checkFails s l 6) : checkOutcome s l 6 (readSpan i s r body) := by
  rw [checkFails_six hd, hr] at h6
  obtain ⟨x, hf, hx, hb⟩ := readSpan_of_unwritten (by simpa using h6) i body
  exact (checkOutcome_six hd).mpr ⟨x, hf, ⟨r, by simp [hr], hx⟩, hb⟩

/-- EQUAL reads the range at a and then the range at b (42_compare.md R89): the fault is in the first of the two that
holds an UNWRITTEN byte. -/
theorem checkOutcome_six_equal (hl : s.latch = some l) (hd : decode l.cmd = .ok .equal) (h3 : ¬ checkFails s l 3)
    (h4 : ¬ checkFails s l 4) (h6 : checkFails s l 6) : checkOutcome s l 6 (execEqual s) := by
  rw [execEqual_of_ranges hl hd h3 h4, checkOutcome_six hd]
  by_cases ha : ∃ x, Span.has ⟨l.addrA, l.packedLen⟩ x = true ∧ s.data.byteAt x = none
  · obtain ⟨x, hf, hx, hb⟩ := readSpan_of_unwritten ha .equal _
    exact ⟨x, hf, ⟨_, .head _, hx⟩, hb⟩
  · have hwritten : ∀ x, Span.has ⟨l.addrA, l.packedLen⟩ x = true → s.data.byteAt x ≠ none :=
      fun x hx hb => ha ⟨x, hx, hb⟩
    obtain ⟨xs, hxs⟩ := (exists_readBytes_iff s.data ⟨l.addrA, l.packedLen⟩).mpr hwritten
    have hunwritten : ∃ x, Span.has ⟨l.addrB, l.packedLen⟩ x = true ∧ s.data.byteAt x = none := by
      obtain ⟨x, ⟨r, hr, hx⟩, hb⟩ := (checkFails_six hd).mp h6
      obtain rfl | rfl : r = ⟨l.addrA, l.packedLen⟩ ∨ r = ⟨l.addrB, l.packedLen⟩ := by simpa [readSpans] using hr
      · exact absurd hb (hwritten x hx)
      · exact ⟨x, hx, hb⟩
    rw [readSpan_ok hxs]
    obtain ⟨x, hf, hx, hb⟩ := readSpan_of_unwritten hunwritten .equal _
    exact ⟨x, hf, ⟨_, .tail _ (.head _), hx⟩, hb⟩

theorem checkOutcome_exec_six (hl : s.latch = some l) (hd : decode l.cmd = .ok i) (h2 : ¬ checkFails s l 2)
    (h3 : ¬ checkFails s l 3) (h4 : ¬ checkFails s l 4) (h5 : ¬ checkFails s l 5) (h6 : checkFails s l 6) :
    checkOutcome s l 6 (exec i s) := by
  by_cases hi : i ∈ rotations
  · obtain ⟨var, rfl⟩ := exists_variant_of_mem_rotations hi
    rw [exec_instr, rotl1Body_of_ranges hl hd h2 h3 h4]
    exact checkOutcome_six_of_readSpan hd (readSpans_rotation var l) h6
  obtain rfl | rfl | rfl := eq_of_notMem_rotations hi
  · have hm := (not_checkFails_five_iff hd (by decide) rfl rfl).mp h5
    rw [exec, execPack_of_ranges hl hd h3 h4, hm, if_neg Bool.false_ne_true]
    exact checkOutcome_six_of_readSpan hd rfl h6
  · have hm := (not_checkFails_five_iff hd (by decide) rfl rfl).mp h5
    rw [exec, execUnpack_of_ranges hl hd h3 h4, hm, if_neg Bool.false_ne_true]
    exact checkOutcome_six_of_readSpan hd rfl h6
  · exact checkOutcome_six_equal hl hd h3 h4 h6

/-! Check 7, the values of PACK's source bytes. -/

theorem exec_of_checkFails_seven (hl : s.latch = some l) (hd : decode l.cmd = .ok i) (h3 : ¬ checkFails s l 3)
    (h4 : ¬ checkFails s l 4) (h5 : ¬ checkFails s l 5) (h6 : ¬ checkFails s l 6) (h7 : checkFails s l 7) :
    exec i s = .next (afterError s 6) := by
  obtain ⟨rfl, -⟩ := (checkFails_seven hd).mp h7
  have hm := (not_checkFails_five_iff hd (by decide) rfl rfl).mp h5
  obtain ⟨u, hu⟩ := (not_checkFails_six_iff hd).mp h6 ⟨l.addrB, l.bits⟩ (.head _)
  have hbad : unpackedOk u = false := by
    simpa using mt (not_checkFails_seven_iff hd hu).mpr (not_not.mpr h7)
  apply eq_next_afterError (e := .invalidData)
  rw [exec, execPack_of_ranges hl hd h3 h4, hm, if_neg Bool.false_ne_true, readSpan_ok hu, if_pos hbad]

/-! The first check that fails, and none. -/

/-- The outcome of a decoded command whose first failing check is `k` (60_exceptions.md R96, checks 2 to 7). -/
theorem checkOutcome_exec {k : Nat} (hl : s.latch = some l) (hd : decode l.cmd = .ok i) (hk1 : 1 ≤ k) (hk7 : k ≤ 7)
    (hk : checkFails s l k) (hfirst : ∀ j, 1 ≤ j → j < k → ¬ checkFails s l j) :
    checkOutcome s l k (exec i s) := by
  have pass (j : Nat) (h1 : 1 ≤ j := by omega) (hj : j < k := by omega) : ¬ checkFails s l j := hfirst j h1 hj
  interval_cases k
  · exact absurd hk (checkFails_one hd)
  · obtain ⟨hi, hf⟩ := (checkFails_two_iff_nframes hd).mp hk
    obtain ⟨var, rfl⟩ := exists_variant_of_mem_rotations hi
    exact (checkOutcome_two hd).mpr ((exec_instr var s).trans (rotl1Body_of_nframes_ne hl hf))
  · exact checkOutcome_exec_three hl hd (pass 2) hk
  · exact (checkOutcome_four hd).mpr (exec_of_checkFails_four hl hd (pass 2) (pass 3) hk)
  · exact (checkOutcome_five hd).mpr (exec_of_checkFails_five hl hd (pass 3) (pass 4) hk)
  · exact checkOutcome_exec_six hl hd (pass 2) (pass 3) (pass 4) (pass 5) hk
  · exact (checkOutcome_seven hd).mpr (exec_of_checkFails_seven hl hd (pass 3) (pass 4) (pass 5) (pass 6) hk)

/-- A decoded command that fails no check completes: its answer is a completion of a store or of a write of EQ. -/
theorem exec_of_noCheckFails (hl : s.latch = some l) (hd : decode l.cmd = .ok i) (hn : NoCheckFails s l) :
    (∃ x vs, exec i s = .next (s.store x vs).complete) ∨ ∃ b, exec i s = .next (s.setEq b).complete := by
  by_cases hi : i ∈ rotations
  · obtain ⟨var, rfl⟩ := exists_variant_of_mem_rotations hi
    obtain ⟨vs, h⟩ := rotl1Body_of_noCheckFails hl hd hn
    exact .inl ⟨_, _, (exec_instr var s).trans h⟩
  obtain rfl | rfl | rfl := eq_of_notMem_rotations hi
  · obtain ⟨u, h⟩ := execPack_of_noCheckFails hl hd hn
    exact .inl ⟨_, _, h⟩
  · obtain ⟨p, h⟩ := execUnpack_of_noCheckFails hl hd hn
    exact .inl ⟨_, _, h⟩
  · exact .inr (execEqual_of_noCheckFails hl hd hn)

end Sys2Proof.Machine
end

section
/-! PROOFS. The statements of 60_exceptions.md. -/

namespace Sys2Proof.Machine

variable {s t : State}

/-- Settles O10: an Illegal word fails check 1; for a decoded command `checkOutcome_exec` goes through checks 2 to 7. -/
theorem checksAreMadeInOrder : Obligations.ChecksAreMadeInOrder := by
  refine ⟨fun s l k hl hk1 hk7 hk hfirst => ?_, fun s l hl hn => ?_⟩
  · cases hd : decode l.cmd with
    | error d =>
      obtain rfl : k = 1 := by
        by_contra hne
        exact hfirst 1 le_rfl (by omega) (checkFails_one_of_error hd)
      simpa only [checkOutcome, hd] using perform_of_decode_error hl hd
    | ok i =>
      rw [perform_of_decode hl hd]
      exact checkOutcome_exec hl hd hk1 hk7 hk hfirst
  · cases hd : decode l.cmd with
    | error d => exact absurd hn (not_noCheckFails_of_error hd)
    | ok i =>
      rw [perform_of_decode hl hd]
      obtain ⟨x, vs, h⟩ | ⟨b, h⟩ := exec_of_noCheckFails hl hd hn
      · exact ⟨_, h, by simp⟩
      · exact ⟨_, h, by simp⟩

/-- Settles O23: a perform raises or leaves HALT as it is, and a raise is the state of R93. -/
theorem errorEntryChangesOnlyStatus : Obligations.ErrorEntryChangesOnlyStatus := by
  intro s t hh h hth
  obtain ⟨e, rfl⟩ | he := perform_halt h
  · obtain ⟨h1, h6⟩ := errorCode_bounds e
    exact ⟨_, h1, h6, raise_eq_afterError s e⟩
  · simp [he, hh] at hth

/-- While HALT is 1, STATUS changes by reset alone (R101): the unit performs nothing and a CMD write is ignored. -/
theorem step_status_of_halted (h : step s = .next t) (hh : s.halt = true) (ht : (nextTurn s).1 ≠ .reset) :
    t.status = s.status := by
  cases hn : (nextTurn s).1 with
  | reset => exact absurd hn ht
  | unit => rw [step_of_disabled h hn (.inr hh)]
  | host =>
    obtain hs | ⟨w, rest, -, rfl⟩ := step_of_host_status h hn
    · exact hs
    · rw [writeCmd_of_halted (s := { s with schedule := (nextTurn s).2, program := rest }) hh]

/-- Settles O25: STATUS as a whole stays while the unit is halted, OVR stays by R29 (O28), and a halted unit that is
not busy has no pending footprint to race with. -/
theorem onlyResetLeavesTheHaltedState : Obligations.OnlyResetLeavesTheHaltedState := by
  refine ⟨fun s t h ht => ⟨fun hh => ?_, fun ho => ?_⟩, fun s t h ht => ?_, fun s hh => ⟨?_, fun w => ?_,
    fun off hoff => ?_, fun off hoff v => ?_, fun hb x hx v => ⟨?_, ?_⟩⟩⟩
  · have hs := step_status_of_halted h hh ht
    exact ⟨(congrArg (·.getLsbD 2) hs).trans hh, congrArg (·.extractLsb' 4 4) hs⟩
  · obtain ⟨-, hstays, -⟩ := ovrRecordsAnIgnoredCommandWrite s t h
    exact hstays ho ht
  · rw [step_of_reset h ht]
    simp
  · simp [State.performEnabled, hh]
  · rw [hostOp_cmdWrite, writeCmd_of_halted hh]
  · have hwindow : ∀ k ∈ [0x04, 0x08, 0x0C, 0x10, 0x14], k % 4 = 0 ∧ k < 0x20 := by decide
    obtain ⟨-, hread⟩ := (onlyAlignedWordAccessesHaveAMove s off 32 0).1 ⟨rfl, hwindow off hoff⟩
    exact hread
  · have hwindow : ∀ k ∈ [0x04, 0x08, 0x0C, 0x10], k % 4 = 0 ∧ k < 0x20 := by decide
    obtain ⟨hwrite, -⟩ := (onlyAlignedWordAccessesHaveAMove s off 32 v).1 ⟨rfl, hwindow off hoff⟩
    exact hwrite
  · exact ⟨_, hostDataAccess_of_ordinary hx (.inl hb) _⟩
  · exact ⟨_, hostDataAccess_of_ordinary hx (.inl hb) _⟩

end Sys2Proof.Machine
end

section
/-! PROOFS. The invariant of Safety.lean: it holds at reset, and each operation on the state keeps it. -/

namespace Sys2Proof.Machine

variable {s t : State} {w : Word}

/-! Bits 31:8 of STATUS stay 0 when a field below them is written (10_state.md R31). -/

theorem reserved_zero_setStatusBit {i : Nat} (hi : i < 8) (b : Bool) (h : ∀ j, 8 ≤ j → w.getLsbD j = false) :
    ∀ j, 8 ≤ j → (setStatusBit w i b).getLsbD j = false := by
  intro j hj
  rw [getLsbD_setStatusBit _ _ _ _ (by omega), if_neg (by omega), h j hj]

theorem reserved_zero_setErrField (c : BitVec 4) (h : ∀ j, 8 ≤ j → w.getLsbD j = false) :
    ∀ j, 8 ≤ j → (setErrField w c).getLsbD j = false := by
  intro j hj
  rw [getLsbD_setErrField, if_neg (by omega), h j hj]

/-! The operations on the state, one by one. -/

theorem Inv.resetWith {c : Config} (hc : c.wf) : Inv (State.resetWith c) where
  cfg_wf := hc
  data_wf := List.Pairwise.nil
  data_within := by simp
  latch_iff_busy := by simp [State.busy]
  not_busy_while_halted := by simp [State.busy]
  err_zero_iff_not_halted := by simp [State.err, State.halt]
  err_not_reserved := by simp [State.err]
  status_reserved_zero := by simp

/-- The invariant speaks of the arguments, DATA, `L`, three fields of STATUS and its reserved bits only. -/
theorem Inv.of_flags (h : Inv s) (hcfg : t.cfg = s.cfg) (hdata : t.data = s.data) (hlatch : t.latch = s.latch)
    (hbusy : t.busy = s.busy) (hhalt : t.halt = s.halt) (herr : t.err = s.err)
    (hzero : ∀ j, 8 ≤ j → t.status.getLsbD j = false) : Inv t where
  cfg_wf := hcfg ▸ h.cfg_wf
  data_wf := hdata ▸ h.data_wf
  data_within := by
    rw [hdata, hcfg]
    exact h.data_within
  latch_iff_busy := by rw [hlatch, hbusy, h.latch_iff_busy]
  not_busy_while_halted := by
    rw [hhalt, hbusy]
    exact h.not_busy_while_halted
  err_zero_iff_not_halted := by rw [herr, hhalt, h.err_zero_iff_not_halted]
  err_not_reserved := herr ▸ h.err_not_reserved
  status_reserved_zero := hzero

theorem Inv.congr (h : Inv s) (hcfg : t.cfg = s.cfg) (hdata : t.data = s.data) (hlatch : t.latch = s.latch)
    (hstatus : t.status = s.status) : Inv t :=
  h.of_flags hcfg hdata hlatch (congrArg (·.getLsbD 0) hstatus) (congrArg (·.getLsbD 2) hstatus)
    (congrArg (·.extractLsb' 4 4) hstatus) (hstatus ▸ h.status_reserved_zero)

theorem Inv.platformReset (h : Inv s) : Inv s.platformReset where
  cfg_wf := h.cfg_wf
  data_wf := h.data_wf
  data_within := h.data_within
  latch_iff_busy := by simp
  not_busy_while_halted := by simp
  err_zero_iff_not_halted := by simp
  err_not_reserved := by simp
  status_reserved_zero := by simp

theorem Inv.store {a : Nat} {vs : List Byte} (h : Inv s) (ha : a + vs.length ≤ s.cfg.memSize) :
    Inv (s.store a vs) where
  cfg_wf := h.cfg_wf
  data_wf := Memory.wf_writeBytes h.data_wf a vs
  data_within := Memory.within_writeBytes h.data_within ha
  latch_iff_busy := h.latch_iff_busy
  not_busy_while_halted := h.not_busy_while_halted
  err_zero_iff_not_halted := h.err_zero_iff_not_halted
  err_not_reserved := h.err_not_reserved
  status_reserved_zero := h.status_reserved_zero

theorem Inv.setEq (h : Inv s) (b : Bool) : Inv (s.setEq b) :=
  h.of_flags rfl rfl rfl (by simp) (by simp) (by simp) (reserved_zero_setStatusBit (by omega) b h.status_reserved_zero)

theorem Inv.setOvr (h : Inv s) (b : Bool) : Inv (s.setOvr b) :=
  h.of_flags rfl rfl rfl (by simp) (by simp) (by simp) (reserved_zero_setStatusBit (by omega) b h.status_reserved_zero)

theorem Inv.complete (h : Inv s) : Inv s.complete where
  cfg_wf := h.cfg_wf
  data_wf := h.data_wf
  data_within := h.data_within
  latch_iff_busy := by simp
  not_busy_while_halted := by simp
  err_zero_iff_not_halted := by simpa using h.err_zero_iff_not_halted
  err_not_reserved := by simpa using h.err_not_reserved
  status_reserved_zero := reserved_zero_setStatusBit (by omega) false h.status_reserved_zero

theorem Inv.raise (h : Inv s) (e : ErrorKind) : Inv (s.raise e) where
  cfg_wf := h.cfg_wf
  data_wf := h.data_wf
  data_within := h.data_within
  latch_iff_busy := by simp
  not_busy_while_halted := by simp
  err_zero_iff_not_halted := by
    cases e <;> simp [errorCode]
  err_not_reserved := by
    obtain ⟨-, h6⟩ := errorCode_bounds e
    rwa [State.raise_err]
  status_reserved_zero :=
    reserved_zero_setStatusBit (by omega) false
      (reserved_zero_setStatusBit (by omega) true (reserved_zero_setErrField _ h.status_reserved_zero))

/-- An accepted CMD write: BUSY and `L` become valid together (10_state.md R20, R33). -/
theorem Inv.latch (h : Inv s) (hh : s.halt = false) (l : Latched) :
    Inv (State.setBusy { s with latch := some l } true) where
  cfg_wf := h.cfg_wf
  data_wf := h.data_wf
  data_within := h.data_within
  latch_iff_busy := by simp
  not_busy_while_halted := by
    rw [State.setBusy_halt]
    exact fun hh' => absurd (hh.symm.trans hh') (by decide)
  err_zero_iff_not_halted := by
    rw [State.setBusy_err, State.setBusy_halt]
    exact h.err_zero_iff_not_halted
  err_not_reserved := by
    rw [State.setBusy_err]
    exact h.err_not_reserved
  status_reserved_zero := reserved_zero_setStatusBit (by omega) true h.status_reserved_zero

theorem Inv.writeCmd (h : Inv s) (w : Word) : Inv (writeCmd s w) := by
  obtain ⟨-, hw⟩ | ⟨-, -, hw⟩ | ⟨hh, -, hw⟩ := writeCmd_cases s w <;> rw [hw]
  · exact h
  · exact h.setOvr true
  · exact h.latch hh _

theorem Inv.writeReg (h : Inv s) (r : Reg) (v : Word) : Inv (writeReg s r v) := by
  by_cases hr : r = .cmd
  · subst hr
    exact h.writeCmd v
  · rw [writeReg_frame hr]
    exact h.congr rfl rfl rfl rfl

/-! What a host operation, a perform and a step keep. -/

theorem Inv.hostOp {o : HostOp} (h : Inv s) (ho : hostOp o s = .next t) : Inv t := by
  obtain ⟨off, r, v, -, -, rfl⟩ | ⟨e, rfl⟩ | ⟨-, -, rfl⟩ | ⟨x, v, -, hx, -, rfl⟩ := hostOp_next ho
  · exact h.writeReg r v
  · exact h.congr rfl rfl rfl rfl
  · exact h.congr rfl rfl rfl rfl
  · exact h.store hx

theorem Inv.perform (h : Inv s) (hp : perform s = .next t) : Inv t := by
  obtain ⟨l, -, ⟨d, -, rfl⟩ | ⟨i, -, he⟩⟩ := perform_next hp
  · exact h.raise _
  · obtain ⟨l, -, ⟨e, rfl⟩ | ⟨-, rfl⟩ | ⟨b, -, rfl⟩ | ⟨r, vs, -, -, hlen, hm, rfl⟩⟩ := exec_next he
    · exact h.raise e
    · exact h.complete
    · exact (h.setEq b).complete
    · exact (h.store (hlen ▸ (Span.inMem_iff _ r).mp hm)).complete

theorem Inv.step (h : Inv s) (hs : step s = .next t) : Inv t := by
  have hsched : Inv { s with schedule := (nextTurn s).2 } := h.congr rfl rfl rfl rfl
  obtain ⟨-, ⟨-, rfl⟩ | ⟨-, -, rfl⟩ | ⟨-, -, hp⟩ | ⟨-, -, rfl⟩ | ⟨o, rest, -, -, ho⟩⟩ := step_next hs
  · exact hsched.platformReset
  · exact hsched
  · exact hsched.perform hp
  · exact hsched
  · refine Inv.hostOp ?_ ho
    exact h.congr rfl rfl rfl rfl

end Sys2Proof.Machine
end

section
/-! PROOFS. The statements about the invariant. -/

namespace Sys2Proof.Machine

/-- Settles O44: the answers of each turn, each kept by the operations it is made of. -/
theorem everyStepKeepsTheInvariant : Obligations.EveryStepKeepsTheInvariant :=
  fun _ _ h hs => h.step hs

/-- Settles O45. -/
theorem invariantHoldsAtReset : Obligations.InvariantHoldsAtReset :=
  ⟨fun _ hc => .resetWith hc, .resetWith (by decide)⟩

end Sys2Proof.Machine
end

section
/-! PROOFS. Two states with the same latched command, the same arguments and the same bytes in its footprint: their
performs answer alike (10_state.md R33; 20_memory.md R42, R43). -/

namespace Sys2Proof.Machine

variable {s s' : State} {l : Latched} {i : Instr} {R : State → State → Prop}

/-- Two outcomes of one kind: related next states, or the same fault, or the same refusal. -/
def Alike (R : State → State → Prop) : Result → Result → Prop
  | .next t, .next t' => R t t'
  | .fault f, .fault f' => f = f'
  | .refused r, .refused r' => r = r'
  | _, _ => False

theorem Alike.exists_next {o o' : Result} {t : State} (h : Alike R o o') (ho : o = .next t) :
    ∃ t', o' = .next t' ∧ R t t' := by
  subst ho
  cases o' with
  | next t' => exact ⟨t', rfl, h⟩
  | fault f => exact h.elim
  | refused r => exact h.elim

theorem Alike.eq_fault {o o' : Result} {f : Fault} (h : Alike R o o') (ho : o = .fault f) : o' = .fault f := by
  subst ho
  cases o' with
  | fault f' => exact congrArg _ (Eq.symm h)
  | next t' => exact h.elim
  | refused r => exact h.elim

theorem Alike.eq_refused {o o' : Result} {r : Refusal} (h : Alike R o o') (ho : o = .refused r) :
    o' = .refused r := by
  subst ho
  cases o' with
  | refused r' => exact congrArg _ (Eq.symm h)
  | next t' => exact h.elim
  | fault f => exact h.elim

theorem Alike.ite {c : Prop} [Decidable c] {o₁ o₂ o₁' o₂' : Result} (h₁ : c → Alike R o₁ o₁')
    (h₂ : ¬ c → Alike R o₂ o₂') : Alike R (if c then o₁ else o₂) (if c then o₁' else o₂') := by
  split
  · exact h₁ ‹_›
  · exact h₂ ‹_›

/-- A read of the same bytes goes on with the same bytes, or faults at the same address. -/
theorem readBytes_congr {m m' : Memory} {a n : Nat} (h : ∀ k < n, m'.byteAt (a + k) = m.byteAt (a + k)) :
    m'.readBytes a n = m.readBytes a n := by
  cases hm : m.readBytes a n with
  | ok vs =>
    obtain ⟨hlen, hb⟩ := Memory.readBytes_eq_ok.mp hm
    exact Memory.readBytes_eq_ok.mpr ⟨hlen, fun k hk => (h k hk).trans (hb k hk)⟩
  | error x =>
    obtain ⟨k, hk, rfl, hx, hj⟩ := Memory.readBytes_eq_error.mp hm
    refine Memory.readBytes_eq_error.mpr ⟨k, hk, rfl, (h k hk).trans hx, fun j hjk => ?_⟩
    rw [h j (by omega)]
    exact hj j hjk

theorem Alike.readSpan {r : Span} {body body' : List Byte → Result}
    (h : ∀ x, r.has x = true → s'.data.byteAt x = s.data.byteAt x)
    (hb : ∀ vs, Alike R (body vs) (body' vs)) : Alike R (readSpan i s r body) (readSpan i s' r body') := by
  have hread : s'.data.readBytes r.start r.len = s.data.readBytes r.start r.len :=
    readBytes_congr fun k hk => h _ ((Span.has_iff r _).mpr (by omega))
  cases hs : s.data.readBytes r.start r.len with
  | ok vs =>
    rw [readSpan_ok hs, readSpan_ok (hread.trans hs)]
    exact hb vs
  | error x =>
    rw [readSpan_error hs, readSpan_error (hread.trans hs)]
    rfl

/-- What the performs of the latched command `l` in `s` and `s'` have in common, and how their answers are related: by
each way in which a perform can end. -/
structure PerformsAlike (R : State → State → Prop) (l : Latched) (s s' : State) : Prop where
  latch : s.latch = some l
  latch' : s'.latch = some l
  cfg : s'.cfg = s.cfg
  bytes : ∀ x, inFootprint l x = true → s'.data.byteAt x = s.data.byteAt x
  raise : ∀ e, R (s.raise e) (s'.raise e)
  complete : R s.complete s'.complete
  setEq : ∀ b, R (s.setEq b).complete (s'.setEq b).complete
  store : ∀ a vs, (∀ k < vs.length, inFootprint l (a + k) = true) →
    R (s.store a vs).complete (s'.store a vs).complete

/-! The footprint of a decoded command, and a store into it. -/

theorem inFootprint_of_decode (hd : decode l.cmd = .ok i) (x : Nat) :
    inFootprint l x = true ↔ ∃ r ∈ readSpans i l ++ writeSpans i l, r.has x = true := by
  simp only [inFootprint, footprint, hd, List.any_eq_true]

theorem inFootprint_of_readSpan {r : Span} {x : Nat} (hd : decode l.cmd = .ok i) (hr : r ∈ readSpans i l)
    (hx : r.has x = true) : inFootprint l x = true :=
  (inFootprint_of_decode hd x).mpr ⟨r, List.mem_append_left _ hr, hx⟩

theorem inFootprint_of_writeSpan {r : Span} {x : Nat} (hd : decode l.cmd = .ok i) (hr : r ∈ writeSpans i l)
    (hx : r.has x = true) : inFootprint l x = true :=
  (inFootprint_of_decode hd x).mpr ⟨r, List.mem_append_right _ hr, hx⟩

namespace PerformsAlike

theorem readSpan (h : PerformsAlike R l s s') (hd : decode l.cmd = .ok i) {r : Span} (hr : r ∈ readSpans i l)
    {body body' : List Byte → Result} (hb : ∀ vs, Alike R (body vs) (body' vs)) :
    Alike R (readSpan i s r body) (readSpan i s' r body') :=
  .readSpan (fun x hx => h.bytes x (inFootprint_of_readSpan hd hr hx)) hb

theorem store_span (h : PerformsAlike R l s s') (hd : decode l.cmd = .ok i) {r : Span} (hr : r ∈ writeSpans i l)
    {vs : List Byte} (hlen : vs.length = r.len) :
    Alike R (.next (s.store r.start vs).complete) (.next (s'.store r.start vs).complete) :=
  h.store _ _ fun k hk => inFootprint_of_writeSpan hd hr ((Span.has_iff r _).mpr (by omega))

/-! The bodies, check by check. -/

theorem execPack (h : PerformsAlike R l s s') (hd : decode l.cmd = .ok .pack) :
    Alike R (execPack s) (execPack s') := by
  rw [Machine.execPack, Machine.execPack, withLatched_some h.latch, withLatched_some h.latch', h.cfg]
  refine .ite (fun _ => h.raise _) fun _ => .ite (fun _ => h.raise _) fun _ => .ite (fun _ => h.raise _) fun _ => ?_
  refine h.readSpan hd (.head _) fun u => .ite (fun _ => h.raise _) fun _ => ?_
  exact h.store_span hd (.head _) (length_packBytes _ _)

theorem execUnpack (h : PerformsAlike R l s s') (hd : decode l.cmd = .ok .unpack) :
    Alike R (execUnpack s) (execUnpack s') := by
  rw [Machine.execUnpack, Machine.execUnpack, withLatched_some h.latch, withLatched_some h.latch', h.cfg]
  refine .ite (fun _ => h.raise _) fun _ => .ite (fun _ => h.raise _) fun _ => .ite (fun _ => h.raise _) fun _ => ?_
  exact h.readSpan hd (.head _) fun p => h.store_span hd (.head _) (length_unpackBytes _ _)

theorem rotl1Body (h : PerformsAlike R l s s') {v : Variant} (hd : decode l.cmd = .ok v.instr) :
    Alike R (rotl1Body v s) (rotl1Body v s') := by
  rw [Machine.rotl1Body, Machine.rotl1Body, withLatched_some h.latch, withLatched_some h.latch', h.cfg]
  refine .ite (fun _ => h.raise _) fun _ => .ite (fun _ => ?_) fun _ => .ite (fun _ => h.raise _) fun _ => ?_
  · exact .ite (fun _ => h.complete) fun _ => h.raise _
  · refine h.readSpan hd (by simp [readSpans_rotation]) fun vs => ?_
    exact h.store_span hd (r := ⟨l.addrA, l.packedLen⟩) (by simp [writeSpans_rotation]) (length_leBytes _ _)

theorem execEqual (h : PerformsAlike R l s s') (hd : decode l.cmd = .ok .equal) :
    Alike R (execEqual s) (execEqual s') := by
  rw [Machine.execEqual, Machine.execEqual, withLatched_some h.latch, withLatched_some h.latch', h.cfg]
  refine .ite (fun _ => h.raise _) fun _ => .ite (fun _ => h.raise _) fun _ => ?_
  exact h.readSpan hd (.head _) fun xs => h.readSpan hd (.tail _ (.head _)) fun ys => h.setEq _

theorem exec (h : PerformsAlike R l s s') (hd : decode l.cmd = .ok i) : Alike R (exec i s) (exec i s') := by
  cases i with
  | pack => exact h.execPack hd
  | unpack => exact h.execUnpack hd
  | rotl1S => exact h.rotl1Body (v := .scalar) hd
  | rotl1V128 => exact h.rotl1Body (v := .v128) hd
  | rotl1V256 => exact h.rotl1Body (v := .v256) hd
  | equal => exact h.execEqual hd

theorem perform (h : PerformsAlike R l s s') : Alike R (perform s) (perform s') := by
  cases hd : decode l.cmd with
  | ok i =>
    rw [perform_of_decode h.latch hd, perform_of_decode h.latch' hd]
    exact h.exec hd
  | error d =>
    have hr := h.raise .illegalCommand
    rw [raise_eq_afterError, raise_eq_afterError] at hr
    rw [perform_of_decode_error h.latch hd, perform_of_decode_error h.latch' hd]
    exact hr

end PerformsAlike

end Sys2Proof.Machine
end

section
/-! PROOFS. The statements about what a perform depends on: its latched operands and its footprint. -/

namespace Sys2Proof.Machine

variable {s t : State} {l : Latched}

/-- `s` with other values in the live operand registers (10_state.md R21 to R24). -/
def State.withOperands (s : State) (n a b f : Word) : State :=
  { s with len := n, addrA := a, addrB := b, nframes := f }

theorem performsAlike_withOperands (hl : s.latch = some l) (n a b f : Word) :
    PerformsAlike (fun t t' => t' = t.withOperands n a b f) l s (s.withOperands n a b f) where
  latch := hl
  latch' := hl
  cfg := rfl
  bytes _ _ := rfl
  raise _ := rfl
  complete := rfl
  setEq _ := rfl
  store _ _ _ := rfl

/-- Settles O37: no command reads a live register, so the two performs end alike. -/
theorem performReadsOnlyTheLatchedOperands : Obligations.PerformReadsOnlyTheLatchedOperands := by
  intro s n a b f
  obtain hl | ⟨l, hl⟩ := s.latch.eq_none_or_eq_some
  · simp [perform, withLatched, hl]
  · have h := (performsAlike_withOperands hl n a b f).perform
    cases ho : perform s with
    | next t =>
      obtain ⟨t', ht', rfl⟩ := h.exists_next ho
      exact ht'
    | fault f => exact h.eq_fault ho
    | refused r => exact h.eq_refused ho

/-- The answers `t` and `t'` of performs of `l` in `s` and in `s` with DATA `m`: the footprint holds the same bytes in
both, every other byte stays in each, and nothing else differs (20_memory.md R42). -/
structure SameButOutside (s : State) (l : Latched) (m : Memory) (t t' : State) : Prop where
  eq_but_data : t' = { t with data := t'.data }
  inside : ∀ x, inFootprint l x = true → t'.data.byteAt x = t.data.byteAt x
  outside : ∀ x, inFootprint l x = false → t.data.byteAt x = s.data.byteAt x ∧ t'.data.byteAt x = m.byteAt x

theorem performsAlike_withData {m : Memory} (hl : s.latch = some l)
    (hm : ∀ x, inFootprint l x = true → m.byteAt x = s.data.byteAt x) :
    PerformsAlike (SameButOutside s l m) l s { s with data := m } where
  latch := hl
  latch' := hl
  cfg := rfl
  bytes := hm
  raise _ := ⟨rfl, hm, fun _ _ => ⟨rfl, rfl⟩⟩
  complete := ⟨rfl, hm, fun _ _ => ⟨rfl, rfl⟩⟩
  setEq _ := ⟨rfl, hm, fun _ _ => ⟨rfl, rfl⟩⟩
  store a vs hw := by
    refine ⟨rfl, fun x hx => ?_, fun x hx => ?_⟩
    · simp only [State.complete_data, State.store_data, Memory.byteAt_writeBytes, hm x hx]
    · have hout : x < a ∨ a + vs.length ≤ x := by
        by_contra hin
        have hk := hw (x - a) (by omega)
        rw [Nat.add_sub_cancel' (by omega), hx] at hk
        exact absurd hk (by decide)
      exact ⟨Memory.byteAt_writeBytes_outside hout, Memory.byteAt_writeBytes_outside hout⟩

/-- Settles O38: the two performs end alike, and a perform that halts the unit raised. -/
theorem performTouchesOnlyItsFootprint : Obligations.PerformTouchesOnlyItsFootprint := by
  intro s t l m hl hp hm
  obtain ⟨t', hp', heq, hin, hout⟩ := (performsAlike_withData hl hm).perform.exists_next hp
  refine ⟨fun x hx => ?_, fun hh hth => ?_, t', hp', heq, fun x => ?_⟩
  · obtain ⟨hx, -⟩ := hout x hx
    exact hx
  · obtain ⟨e, rfl⟩ | he := perform_halt hp
    · rfl
    · simp [he, hh] at hth
  · cases hx : inFootprint l x with
    | true => exact hin x hx
    | false =>
      obtain ⟨-, hx⟩ := hout x hx
      exact hx

end Sys2Proof.Machine
end

section
/-! PROOFS. What PACK, UNPACK and EQUAL answer where they are ready (40_pack.md R66, R68; 42_compare.md R89). -/

namespace Sys2Proof.Machine

variable {s : State} {l : Latched}

/-! The bytes that were read, and the state after a completed store. -/

theorem byteAt_of_readBytes {m : Memory} {a n k : Nat} {vs : List Byte} (h : m.readBytes a n = .ok vs)
    (hk : k < n) : m.byteAt (a + k) = some (vs.getD k 0#8) := by
  obtain ⟨rfl, hb⟩ := Memory.readBytes_eq_ok.mp h
  rw [hb k hk, List.getD_eq_getElem _ _ hk, List.getElem?_eq_getElem hk]

theorem byteAt_store_complete {a k : Nat} {vs : List Byte} (hk : k < vs.length) :
    (s.store a vs).complete.data.byteAt (a + k) = vs[k]? :=
  Memory.byteAt_writeBytes_inside hk

theorem sameOutside_store_complete (s : State) (a : Nat) (vs : List Byte) :
    SameOutside s (s.store a vs).complete a vs.length :=
  fun _ hx => Memory.byteAt_writeBytes_outside hx

/-! Each command's answer as a whole state, with the bytes it read. -/

theorem execPack_of_ready (h : PackReady s l) :
    ∃ u, s.data.readBytes l.addrB l.bits = .ok u ∧
      execPack s = .next (s.store l.addrA (packBytes l.packedLen u)).complete := by
  obtain ⟨hl, hpos, hn, hdst, hsrc, hdis, hbits⟩ := h
  obtain ⟨u, hu⟩ : ∃ u, s.data.readBytes l.addrB l.bits = .ok u :=
    exists_readBytes fun k hk => by obtain hb | hb := hbits k hk <;> exact Option.isSome_of_eq_some hb
  have hlen : byteLengthOk l.bits = true := (byteLengthOk_iff _).mpr ⟨hpos.ne', hn⟩
  have hdstIn : Span.inMem s.cfg ⟨l.addrA, l.packedLen⟩ = true := (Span.inMem_iff _ _).mpr hdst
  have hsrcIn : Span.inMem s.cfg ⟨l.addrB, l.bits⟩ = true := (Span.inMem_iff _ _).mpr hsrc
  have hmeets : Span.meets ⟨l.addrA, l.packedLen⟩ ⟨l.addrB, l.bits⟩ = false := Span.meets_eq_false_of_le hdis
  have hok : unpackedOk u = true := (unpackedOk_iff_byteAt hu).mpr fun k hk v hv =>
    (hbits k hk).imp (fun hb => Option.some.inj (hv.symm.trans hb)) fun hb => Option.some.inj (hv.symm.trans hb)
  refine ⟨u, hu, ?_⟩
  rw [execPack, withLatched_some hl]
  simp [hlen, hdstIn, hsrcIn, hmeets, readSpan_ok (r := ⟨l.addrB, l.bits⟩) hu, hok]

theorem execUnpack_of_ready (h : UnpackReady s l) :
    ∃ p, s.data.readBytes l.addrB l.packedLen = .ok p ∧
      execUnpack s = .next (s.store l.addrA (unpackBytes l.bits p)).complete := by
  obtain ⟨hl, hpos, hn, hdst, hsrc, hdis, hbytes⟩ := h
  obtain ⟨p, hp⟩ : ∃ p, s.data.readBytes l.addrB l.packedLen = .ok p := exists_readBytes hbytes
  have hlen : byteLengthOk l.bits = true := (byteLengthOk_iff _).mpr ⟨hpos.ne', hn⟩
  have hdstIn : Span.inMem s.cfg ⟨l.addrA, l.bits⟩ = true := (Span.inMem_iff _ _).mpr hdst
  have hsrcIn : Span.inMem s.cfg ⟨l.addrB, l.packedLen⟩ = true := (Span.inMem_iff _ _).mpr hsrc
  have hmeets : Span.meets ⟨l.addrA, l.bits⟩ ⟨l.addrB, l.packedLen⟩ = false := Span.meets_eq_false_of_le hdis
  refine ⟨p, hp, ?_⟩
  rw [execUnpack, withLatched_some hl]
  simp [hlen, hdstIn, hsrcIn, hmeets, readSpan_ok (r := ⟨l.addrB, l.packedLen⟩) hp]

theorem execEqual_of_ready (h : EqualReady s l) :
    ∃ xs ys, s.data.readBytes l.addrA l.packedLen = .ok xs ∧ s.data.readBytes l.addrB l.packedLen = .ok ys ∧
      execEqual s = .next (s.setEq (equalFlag xs ys)).complete := by
  obtain ⟨hl, hpos, hn, ha, hb, hbytes⟩ := h
  obtain ⟨xs, hx⟩ : ∃ xs, s.data.readBytes l.addrA l.packedLen = .ok xs :=
    exists_readBytes fun k hk => (hbytes k hk).1
  obtain ⟨ys, hy⟩ : ∃ ys, s.data.readBytes l.addrB l.packedLen = .ok ys :=
    exists_readBytes fun k hk => (hbytes k hk).2
  have hlen : byteLengthOk l.bits = true := (byteLengthOk_iff _).mpr ⟨hpos.ne', hn⟩
  have haIn : Span.inMem s.cfg ⟨l.addrA, l.packedLen⟩ = true := (Span.inMem_iff _ _).mpr ha
  have hbIn : Span.inMem s.cfg ⟨l.addrB, l.packedLen⟩ = true := (Span.inMem_iff _ _).mpr hb
  refine ⟨xs, ys, hx, hy, ?_⟩
  rw [execEqual, withLatched_some hl]
  simp [hlen, haIn, hbIn, readSpan_ok (r := ⟨l.addrA, l.packedLen⟩) hx,
    readSpan_ok (r := ⟨l.addrB, l.packedLen⟩) hy]

end Sys2Proof.Machine
end

section
/-! PROOFS. The statements of 40_pack.md and 42_compare.md about completion. -/

namespace Sys2Proof.Machine

/-- Settles O5: packed byte i is `packByte` of its eight source bytes, which is R66's expression. -/
theorem packCompletes : Obligations.PackCompletes := by
  rintro s l n dst src hr rfl rfl rfl
  obtain ⟨u, hu, he⟩ := execPack_of_ready hr
  have hout := sameOutside_store_complete s l.addrA (packBytes l.packedLen u)
  rw [length_packBytes] at hout
  refine ⟨_, he, fun i hi => ⟨fun q => u.getD (8 * i + q) 0#8, fun q hq => ?_, ?_⟩, hout,
    completed_store_complete s _ _⟩
  · exact byteAt_of_readBytes hu (show 8 * i + q < l.len.toNat by omega)
  · exact (byteAt_store_complete (by rwa [length_packBytes])).trans (getElem?_packBytes u hi)

/-- Settles O6: unpacked byte k is bit k mod 8 of source byte k div 8, by `getElem?_unpackBytes`. -/
theorem unpackCompletes : Obligations.UnpackCompletes := by
  rintro s l n dst src hr rfl rfl rfl
  obtain ⟨p, hp, he⟩ := execUnpack_of_ready hr
  obtain ⟨-, -, hn, -⟩ := hr
  have hout := sameOutside_store_complete s l.addrA (unpackBytes l.bits p)
  rw [length_unpackBytes] at hout
  refine ⟨_, he, fun k hk => ⟨p.getD (k / 8) 0#8, ?_, ?_⟩, hout, completed_store_complete s _ _⟩
  · exact byteAt_of_readBytes hp (show k / 8 < l.len.toNat / 8 by omega)
  · exact (byteAt_store_complete (by rwa [length_unpackBytes])).trans (getElem?_unpackBytes p hk)

/-- Settles O8: EQ by `equalFlag_iff`, and the other bits of STATUS by the two writes of a bit. -/
theorem equalCompletes : Obligations.EqualCompletes := by
  rintro s l n a b hr rfl rfl rfl
  obtain ⟨xs, ys, hx, hy, he⟩ := execEqual_of_ready hr
  refine ⟨_, he, ?_, State.complete_busy _, fun j hj => ?_, rfl, rfl, ⟨rfl, rfl, rfl, rfl, rfl⟩, rfl, rfl, rfl⟩
  · have heq : (s.setEq (equalFlag xs ys)).complete.eqFlag = equalFlag xs ys := by simp
    exact (Bool.eq_iff_iff.mp heq).trans (equalFlag_iff hx hy)
  · rw [State.complete_status, State.setEq_status, getLsbD_setStatusBit _ _ _ _ (by decide), if_neg (by omega),
      getLsbD_setStatusBit _ _ _ _ (by decide), if_neg (by omega)]

end Sys2Proof.Machine
end

section
/-! PROOFS. What a step is, by the turn that comes next, and what a host turn leaves of a pending command
(20_memory.md R50; 60_exceptions.md R95). -/

namespace Sys2Proof.Machine

variable {s t : State} {ts : List Turn}

/-! Whose turn it is, and the step of that turn. -/

theorem nextTurn_of_cons {turn : Turn} (h : s.schedule = turn :: ts) : nextTurn s = (turn, ts) := by
  simp [nextTurn, h]

/-- Where the schedule has ended, an enabled perform goes first (log 1). -/
theorem nextTurn_of_pending (h : s.schedule = []) (hb : s.busy = true) (hh : s.halt = false) :
    nextTurn s = (.unit, []) := by
  simp [nextTurn, h, performEnabled_iff.mpr ⟨hb, hh⟩]

theorem step_of_reserved (h : 7 ≤ s.err.toNat) : step s = .refused (.reservedErrorCode s.err.toNat) := by
  simp [step, interleaveStep, h]

theorem step_eq_takeTurn (h : s.err.toNat < 7) :
    step s = takeTurn (nextTurn s).1 { s with schedule := (nextTurn s).2 } := by
  simp [step, interleaveStep, h]

theorem step_of_cons {turn : Turn} (h : s.err.toNat < 7) (hs : s.schedule = turn :: ts) :
    step s = takeTurn turn { s with schedule := ts } := by
  rw [step_eq_takeTurn h, nextTurn_of_cons hs]

/-- An enabled unit's turn performs the latched command. -/
theorem step_eq_perform (h : s.err.toNat < 7) (hb : s.busy = true) (hh : s.halt = false)
    (ht : (nextTurn s).1 = .unit) : step s = perform { s with schedule := (nextTurn s).2 } := by
  rw [step_eq_takeTurn h, ht]
  exact if_pos (performEnabled_iff.mpr ⟨hb, hh⟩)

/-! A host turn whose operation is POLL. -/

theorem hostTurn_of_cons {o : HostOp} {rest : List HostOp} (h : s.program = o :: rest) :
    hostTurn s = hostOp o { s with program := rest } := by
  simp [hostTurn, h]

/-- POLL is a read of STATUS that stays in the program while the BUSY it read is 1 (30_encoding.md R65). -/
theorem hostOp_poll (s : State) :
    hostOp .poll s = .next
      { s with
        reads := .reg .status (statusReadValue s.status) :: s.reads
        program := if (statusReadValue s.status).getLsbD 0 = true then .poll :: s.program else s.program } := by
  by_cases hb : (statusReadValue s.status).getLsbD 0 = true
  · rw [if_pos hb]
    exact if_pos hb
  · rw [if_neg hb]
    exact if_neg hb

/-! A pending command during the host's turns. -/

theorem writeReg_schedule (s : State) (r : Reg) (v : Word) : (writeReg s r v).schedule = s.schedule := by
  by_cases hr : r = .cmd
  · subst hr
    obtain ⟨-, h⟩ | ⟨-, -, h⟩ | ⟨-, -, h⟩ := writeCmd_cases s v <;> rw [writeReg, h] <;> rfl
  · rw [writeReg_frame hr]

/-- A write of any register leaves `L` alone while a command is pending (10_state.md R20, R33). -/
theorem writeReg_latch_of_busy (hb : s.busy = true) (r : Reg) (v : Word) : (writeReg s r v).latch = s.latch := by
  by_cases hr : r = .cmd
  · subst hr
    obtain ⟨-, h⟩ | ⟨-, -, h⟩ | ⟨-, hi, -⟩ := writeCmd_cases s v
    · rw [writeReg, h]
    · rw [writeReg, h]
      rfl
    · exact absurd (hb.symm.trans hi) (by decide)
  · rw [writeReg_frame hr]

theorem hostOp_schedule {o : HostOp} (h : hostOp o s = .next t) : t.schedule = s.schedule := by
  obtain ⟨off, r, v, -, -, rfl⟩ | ⟨e, rfl⟩ | ⟨-, -, rfl⟩ | ⟨x, v, -, -, -, rfl⟩ := hostOp_next h
  · exact writeReg_schedule s r v
  all_goals rfl

theorem hostOp_latch_of_busy {o : HostOp} (hb : s.busy = true) (h : hostOp o s = .next t) : t.latch = s.latch := by
  obtain ⟨off, r, v, -, -, rfl⟩ | ⟨e, rfl⟩ | ⟨-, -, rfl⟩ | ⟨x, v, -, -, -, rfl⟩ := hostOp_next h
  · exact writeReg_latch_of_busy hb r v
  all_goals rfl

/-- A host turn leaves a pending command pending, and takes one turn off the schedule. -/
theorem step_of_host_pending (h : step s = .next t) (hs : s.schedule = .host :: ts) (hb : s.busy = true)
    (hh : s.halt = false) : t.busy = true ∧ t.halt = false ∧ t.latch = s.latch ∧ t.schedule = ts := by
  have hnext := nextTurn_of_cons hs
  have ht : (nextTurn s).1 = .host := by rw [hnext]
  have hbusy : t.busy = true := by
    obtain hbt | ⟨hidle, -⟩ := step_busy_of_host h ht
    · exact hbt.trans hb
    · exact absurd (hb.symm.trans hidle) (by decide)
  refine ⟨hbusy, (step_halt_of_host h ht).trans hh, ?_⟩
  obtain ⟨-, h | h | h | ⟨-, -, rfl⟩ | ⟨o, rest, -, -, ho⟩⟩ := step_next h
  iterate 3 simp [ht] at h
  · simp [hnext]
  · exact ⟨hostOp_latch_of_busy (s := { s with schedule := (nextTurn s).2, program := rest }) hb ho,
      (hostOp_schedule ho).trans (by rw [hnext])⟩

/-! Runs of steps. -/

theorem runSteps_succ (h : step s = .next t) (k : Nat) : runSteps (k + 1) s = runSteps k t := by
  simp [runSteps, h]

theorem runSteps_one (s : State) : runSteps 1 s = step s := by
  cases h : step s <;> simp [runSteps, h]

/-- A run stops within `n` steps, with a model fault or a refusal. -/
def StopsWithin (n : Nat) (s : State) : Prop :=
  ∃ k ≤ n, (∃ f, runSteps k s = .fault f) ∨ ∃ r, runSteps k s = .refused r

theorem StopsWithin.of_next {n : Nat} (h : step s = .next t) : StopsWithin n t → StopsWithin (n + 1) s := by
  rintro ⟨k, hk, hstop⟩
  refine ⟨k + 1, by omega, ?_⟩
  rwa [runSteps_succ h]

/-- Where the next step answers no state, the run stops within one step. -/
theorem exists_step_or_stopsWithin (s : State) (n : Nat) : (∃ t, step s = .next t) ∨ StopsWithin (n + 1) s := by
  cases h : step s with
  | next t => exact .inl ⟨t, rfl⟩
  | fault f => exact .inr ⟨1, by omega, .inl ⟨f, (runSteps_one s).trans h⟩⟩
  | refused r => exact .inr ⟨1, by omega, .inr ⟨r, (runSteps_one s).trans h⟩⟩

/-- The command pending in `s` is still pending in `u`, and the step of `u` is its perform or, where the schedule `ts`
holds a reset, that reset (60_exceptions.md section 2). -/
def Serves (s u : State) (ts : List Turn) : Prop :=
  u.busy = true ∧ u.halt = false ∧ u.latch = s.latch ∧
    (((nextTurn u).1 = .unit ∧ step u = perform { u with schedule := (nextTurn u).2 } ∧
        ∀ t, step u = .next t → t.busy = false) ∨
      ((nextTurn u).1 = .reset ∧ Turn.reset ∈ ts))

theorem serves_of_unit (hb : s.busy = true) (hh : s.halt = false) (he : s.err.toNat < 7)
    (ht : (nextTurn s).1 = .unit) : Serves s s ts := by
  have hp := step_eq_perform he hb hh ht
  exact ⟨hb, hh, rfl, .inl ⟨ht, hp, fun t hst => perform_busy (hp.symm.trans hst)⟩⟩

/-- One more turn in front, which leaves `L` alone. -/
theorem Serves.cons {u : State} (h : Serves t u ts) (hl : t.latch = s.latch) (turn : Turn) :
    Serves s u (turn :: ts) := by
  obtain ⟨hb, hh, hlu, hu | ⟨hu, hr⟩⟩ := h
  · exact ⟨hb, hh, hlu.trans hl, .inl hu⟩
  · exact ⟨hb, hh, hlu.trans hl, .inr ⟨hu, List.mem_cons_of_mem _ hr⟩⟩

/-- Weak fairness, by induction on the schedule: the host's turns before the unit's or the reset's leave the command
pending. -/
theorem exists_serves_or_stopsWithin (hs : s.schedule = ts) (hb : s.busy = true) (hh : s.halt = false) :
    (∃ k ≤ ts.length, ∃ u, runSteps k s = .next u ∧ Serves s u ts) ∨ StopsWithin (ts.length + 1) s := by
  induction ts generalizing s with
  | nil =>
    obtain ⟨t, hst⟩ | hstop := exists_step_or_stopsWithin s 0
    · obtain ⟨he, -⟩ := step_next hst
      have ht : (nextTurn s).1 = .unit := by rw [nextTurn_of_pending hs hb hh]
      exact .inl ⟨0, le_rfl, s, rfl, serves_of_unit hb hh he ht⟩
    · exact .inr hstop
  | cons turn ts ih =>
    obtain ⟨t, hst⟩ | hstop := exists_step_or_stopsWithin s (turn :: ts).length
    · have hnext := nextTurn_of_cons hs
      cases turn with
      | unit =>
        obtain ⟨he, -⟩ := step_next hst
        exact .inl ⟨0, Nat.zero_le _, s, rfl, serves_of_unit hb hh he (by rw [hnext])⟩
      | reset =>
        exact .inl ⟨0, Nat.zero_le _, s, rfl, hb, hh, rfl, .inr ⟨by rw [hnext], List.mem_cons_self⟩⟩
      | host =>
        obtain ⟨hbt, hht, hlt, hts⟩ := step_of_host_pending hst hs hb hh
        obtain ⟨k, hk, u, hrun, hu⟩ | hstop := ih hts hbt hht
        · exact .inl ⟨k + 1, Nat.succ_le_succ hk, u, (runSteps_succ hst k).trans hrun, hu.cons hlt .host⟩
        · exact .inr (hstop.of_next hst)
    · exact .inr hstop

end Sys2Proof.Machine
end

section
/-! PROOFS. The statements about the host's programs, about single steps and about fairness. -/

namespace Sys2Proof.Machine

/-- Settles O40: the read value of STATUS by `getLsbD_statusReadValue`. -/
theorem pollReadsStatusUntilIdle : Obligations.PollReadsStatusUntilIdle := by
  intro s turns rest he hs hp
  refine ⟨statusReadValue s.status, fun j hj => ?_, fun j hj => ?_, ?_⟩
  · simp [getLsbD_statusReadValue, hj]
  · simp [getLsbD_statusReadValue, hj]
  · rw [step_of_cons (by omega) hs, takeTurn, hostTurn_of_cons (s := { s with schedule := turns }) hp, hostOp_poll]

/-- Settles O41: the reset turn, and a CMD write to an idle unit (R20). -/
theorem resetSetsTheRegistersAndKeepsData : Obligations.ResetSetsTheRegistersAndKeepsData := by
  intro s rest he hs
  have hbusy := State.platformReset_busy { s with schedule := rest }
  refine ⟨State.platformReset { s with schedule := rest }, step_of_cons (by omega) hs, rfl, hbusy, fun w => ?_⟩
  rw [hostOp_cmdWrite, writeCmd_of_idle (State.platformReset_halt _) hbusy]
  simp

/-- Settles O43: the unit's turn is a perform, by `step_eq_perform`, and a perform decodes the latched word. -/
theorem aStepRunsTheLatchedCommand : Obligations.AStepRunsTheLatchedCommand := by
  intro s l hl hb hh he
  have hlt : s.err.toNat < 7 := by simp [he]
  have hcons : ∀ rest, s.schedule = .unit :: rest → step s = perform { s with schedule := rest } := by
    intro rest hs
    rw [step_eq_perform hlt hb hh (by rw [nextTurn_of_cons hs]), nextTurn_of_cons hs]
  have hnil : s.schedule = [] → step s = perform s := by
    intro hs
    rw [step_eq_perform hlt hb hh (by rw [nextTurn_of_pending hs hb hh]), nextTurn_of_pending hs hb hh, ← hs]
  refine ⟨fun i hd => ⟨fun rest hs => ?_, fun hs => ?_⟩, fun d hd => ⟨fun rest hs => ?_, fun hs => ?_⟩⟩
  · exact (hcons rest hs).trans (perform_of_decode (s := { s with schedule := rest }) hl hd)
  · exact (hnil hs).trans (perform_of_decode hl hd)
  · exact (hcons rest hs).trans (perform_of_decode_error (s := { s with schedule := rest }) hl hd)
  · exact (hnil hs).trans (perform_of_decode_error hl hd)

/-- Settles O46. -/
theorem aPendingCommandIsPerformedUnlessReset : Obligations.APendingCommandIsPerformedUnlessReset :=
  fun _ hb hh => exists_serves_or_stopsWithin rfl hb hh

end Sys2Proof.Machine
end

section
/-! PROOFS. The host's register writes and pseudo-instructions (30_encoding.md R64, R65), and footprints
(20_memory.md R42). -/

namespace Sys2Proof.Machine

variable {s t : State} {l : Latched} {i : Instr} {o : HostOp}

theorem runHostOps_nil (s : State) : runHostOps [] s = .next s := rfl

theorem runHostOps_cons (h : hostOp o s = .next t) (os : List HostOp) :
    runHostOps (o :: os) s = runHostOps os t := by
  simp [runHostOps, h]

/-- `W reg, v` is a register write, which always answers (R64; 10_state.md R18). -/
theorem hostOp_asmW (r : Reg) (v : Word) (s : State) : hostOp (asmW r v) s = .next (writeReg s r v) := by
  cases r <;> rfl

theorem runHostOps_asmW_cons (r : Reg) (v : Word) (os : List HostOp) (s : State) :
    runHostOps (asmW r v :: os) s = runHostOps os (writeReg s r v) :=
  runHostOps_cons (hostOp_asmW r v s) os

/-- The last operation of each pseudo-instruction: the CMD write, accepted by an idle unit (R20). -/
theorem runHostOps_asmCmd (hh : s.halt = false) (hb : s.busy = false) (w : Word) :
    runHostOps [asmCmd w] s = .next
      { s with
        status := s.status ||| 0x00000001#32
        latch := some { cmd := w, len := s.len, a := s.addrA, b := s.addrB, nframes := s.nframes } } := by
  rw [asmCmd, runHostOps_asmW_cons, runHostOps_nil, writeReg, writeCmd_of_idle hh hb]

/-- The expansion of PACK, UNPACK and EQUAL, for the command word `w` (R65). -/
theorem runHostOps_two_addresses (hh : s.halt = false) (hb : s.busy = false) (x y n w : Word) :
    runHostOps [asmW .addrA x, asmW .addrB y, asmW .len n, asmCmd w] s = .next
      { s with
        len := n, addrA := x, addrB := y, status := s.status ||| 0x00000001#32
        latch := some { cmd := w, len := n, a := x, b := y, nframes := s.nframes } } := by
  simp only [runHostOps_asmW_cons]
  exact runHostOps_asmCmd (s := writeReg (writeReg (writeReg s .addrA x) .addrB y) .len n) hh hb w

/-- The expansion of the three rotations, for the command word `w` (R65). -/
theorem runHostOps_one_address (hh : s.halt = false) (hb : s.busy = false) (x n w : Word) :
    runHostOps [asmW .addrA x, asmW .len n, asmCmd w] s = .next
      { s with
        len := n, addrA := x, status := s.status ||| 0x00000001#32
        latch := some { cmd := w, len := n, a := x, b := s.addrB, nframes := s.nframes } } := by
  simp only [runHostOps_asmW_cons]
  exact runHostOps_asmCmd (s := writeReg (writeReg s .addrA x) .len n) hh hb w

/-! The footprint by the ranges of R42's table. -/

theorem inFootprint_of_decode_error {d : DecodeError} (hd : decode l.cmd = .error d) (x : Nat) :
    inFootprint l x = false := by
  simp [inFootprint, footprint, hd]

end Sys2Proof.Machine
end

section
/-! PROOFS. The statements about written-out words, operand registers, footprints and pseudo-instructions. -/

namespace Sys2Proof.Machine

/-- Settles O4: the six words are the encodings, and the others are rejected by evaluation. -/
theorem writtenOutWordsDecode : Obligations.WrittenOutWordsDecode :=
  ⟨decode_eq_ok_iff.mpr rfl, decode_eq_ok_iff.mpr rfl, decode_eq_ok_iff.mpr rfl, decode_eq_ok_iff.mpr rfl,
    decode_eq_ok_iff.mpr rfl, decode_eq_ok_iff.mpr rfl, rfl, rfl, rfl, rfl⟩

/-- Settles O30: each write is `writeReg` at the register's offset, and each read notes `readReg` there. -/
theorem operandRegistersHoldEveryValue : Obligations.OperandRegistersHoldEveryValue :=
  fun s v => ⟨⟨hostOp_asmW .len v s, rfl⟩, ⟨hostOp_asmW .addrA v s, rfl⟩, ⟨hostOp_asmW .addrB v s, rfl⟩,
    ⟨hostOp_asmW .nframes v s, rfl⟩⟩

/-- Settles O33: the ranges that each command reads and writes. -/
theorem footprintsAreTheTables : Obligations.FootprintsAreTheTables := by
  rintro l n a b x rfl rfl rfl
  refine ⟨fun hd => ?_, fun hd => ?_, forall_rotations_iff.mpr fun var hd => ?_, fun hd => ?_,
    fun d hd => inFootprint_of_decode_error hd x⟩
  · rw [inFootprint_of_decode hd]
    simp [readSpans, writeSpans, Latched.bits, Latched.packedLen, Latched.addrA, Latched.addrB]
  · rw [inFootprint_of_decode hd]
    simp [readSpans, writeSpans, Latched.bits, Latched.packedLen, Latched.addrA, Latched.addrB]
  · rw [inFootprint_of_decode hd]
    simp [readSpans_rotation, writeSpans_rotation, Latched.bits, Latched.packedLen, Latched.addrA]
  · rw [inFootprint_of_decode hd]
    simp [readSpans, writeSpans, Latched.bits, Latched.packedLen, Latched.addrA, Latched.addrB]

/-- Settles O39: the operand registers are written one by one, and the command is latched with them. -/
theorem pseudoInstructionsLatchTheirCommand : Obligations.PseudoInstructionsLatchTheirCommand :=
  fun _ x y n hh hb =>
    ⟨runHostOps_two_addresses hh hb x y n _, runHostOps_two_addresses hh hb x y n _,
      runHostOps_one_address hh hb x n _, runHostOps_one_address hh hb x n _, runHostOps_one_address hh hb x n _,
      runHostOps_two_addresses hh hb x y n _⟩

end Sys2Proof.Machine
end
